-- ==== Sys2Proof/Word.lean ====
section
/-! DEFINITION. The word types of the engine (00_scope.md R10) and the two-lane 128-bit value (10_state.md R30).
Arithmetic on a word wraps modulo its width, which is what `BitVec` arithmetic does (R10, R15). -/

namespace Sys2Proof

/-- An 8-bit byte of INBUF (20_memory.md R39). -/
abbrev U8 := BitVec 8

/-- The spec's `u32` (R10). -/
abbrev U32 := BitVec 32

/-- The spec's `u64` (R10). -/
abbrev U64 := BitVec 64

/-- The 128-bit value: "exactly two 64-bit unsigned lanes" (R30). Construction and the two projections are its only
operations besides the byte layout (`U128.bytes`, Machine/Ops.lean); no arithmetic is defined on it as a whole. -/
structure U128 where
  lo : U64
  hi : U64
  deriving DecidableEq, Repr

end Sys2Proof
end

