-- ==== Sys2Proof/Config.lean ====
section
/-! DEFINITION. What an engine instance fixes (`Params`: the parameters of 00_scope.md R11 and R13), the free values the
spec leaves open, and the platform's parameters that no rule reads. -/

namespace Sys2Proof

/-- The parameters of one engine instance. MAXLEN is a natural number up to 2^64 − 1 (R13), so a `u64`; K0..K3, C1, C2
are the mixing constants (R11). A state carries its instance's parameters, no step changes them, and a statement over
all states holds for every binding (DESIGN CHOICE, safe; notes/assumptions/2.md). -/
structure Params where
  maxlen : U64
  k0 : U64
  k1 : U64
  k2 : U64
  k3 : U64
  c1 : U32
  c2 : U32
  deriving DecidableEq, Repr

/-- "Each must be odd" (R11). -/
abbrev Params.wf (p : Params) : Prop :=
  p.k0.getLsbD 0 = true ∧ p.k1.getLsbD 0 = true ∧ p.k2.getLsbD 0 = true ∧ p.k3.getLsbD 0 = true ∧
  p.c1.getLsbD 0 = true ∧ p.c2.getLsbD 0 = true

/-- The default binding of R11 and the MAXLEN of the spec's vectors (R13). Only `State.reset` uses it
(DESIGN CHOICE, unsafe for a claim about `State.reset` read as one about every instance; notes/assumptions/2.md). -/
def Params.default : Params where
  maxlen := 256
  k0 := 0xc3a5c85c97cb3127
  k1 := 0xb492b66be2e7d0b1
  k2 := 0x9ae16a3b2f90404f
  k3 := 0xc949d7c7509e6557
  c1 := 0xcc9e2d51
  c2 := 0x1b873593

/-- FREE VALUE: the byte a host reads from an INBUF address whose written mark is clear, at the draw with this number
(20_memory.md R46, 93 U4; safe; notes/assumptions/4.md). -/
opaque Config.freeByte : Nat → U8

/-- FREE VALUE: what a 32-bit working register holds once its command has ended (10_state.md R31; safe;
notes/assumptions/7.md). -/
opaque Config.freeU32 : Nat → U32

/-- FREE VALUE: what a 64-bit working register holds once its command has ended (10_state.md R32; safe;
notes/assumptions/7.md). -/
opaque Config.freeU64 : Nat → U64

/-- STEP_LATENCY, the duration of an engine step: "a parameter that no rule reads" (70_reset_and_hazards.md R162;
notes/assumptions/11.md). -/
opaque Config.stepLatency : Nat

/-- REG_BASE, where the platform maps the register window; "no rule depends on" it (20_memory.md R50;
notes/assumptions/11.md). -/
opaque Config.regBase : Nat

/-- INBUF_BASE, where the platform maps INBUF; "no rule depends on" it (20_memory.md R50; notes/assumptions/11.md). -/
opaque Config.inbufBase : Nat

/-- IRQ_ROUTE, how `irq` reaches a host interrupt controller: "the platform's choice" (60_exceptions.md R139;
notes/assumptions/11.md). -/
opaque Config.irqRoute : Nat

end Sys2Proof
end

