-- ==== Sys2Proof/Syntax.lean ====
section
/-! DEFINITION. The commands of the engine, one constructor for each row of spec/opcode_table.json (30_encoding.md R63).
The command word has no operand fields (R59), so no constructor has arguments: a command takes its operands from the
latched registers (R62). -/

namespace Sys2Proof

/-- The 17 commands (R63). -/
inductive Instr where
  | hash32
  | hash64
  | hash64Seed
  | hash64Seeds
  | rotr32
  | rotr64
  | rotr64Al1
  | fetch32
  | fetch64
  | fmix
  | mur
  | shiftmix
  | hash128to64
  | weakhash
  | weakhashMem
  | fetch8
  | bswap32
  deriving DecidableEq, Repr

end Sys2Proof
end

