-- ==== Sys2Proof/WellFormed.lean ====
section
/-! DEFINITION. Well-formedness. A command as syntax has no fields that could be out of range (30_encoding.md R59), so
every `Instr` is well formed; what can be ill formed is a command WORD: its reserved bits (R65) or its opcode (R64). -/

namespace Sys2Proof

/-- A command has "no immediates, register specifiers or mode bits" (R59): nothing to check, constructor by
constructor. -/
def Instr.wellFormed : Instr → Bool
  | .hash32 => true
  | .hash64 => true
  | .hash64Seed => true
  | .hash64Seeds => true
  | .rotr32 => true
  | .rotr64 => true
  | .rotr64Al1 => true
  | .fetch32 => true
  | .fetch64 => true
  | .fmix => true
  | .mur => true
  | .shiftmix => true
  | .hash128to64 => true
  | .weakhash => true
  | .weakhashMem => true
  | .fetch8 => true
  | .bswap32 => true

/-- R65: "Reserved bits" 63:8 must be 0. -/
def reservedClear (w : U64) : Bool := w.toNat / 256 == 0

/-- R64: the illegal opcodes are 0x00, 0x05..0x0F and 0x1D..0xFF. -/
def opcodeLegal (op : U8) : Bool :=
  let n := op.toNat
  !(n == 0x00 || (0x05 ≤ n && n ≤ 0x0F) || (0x1D ≤ n && n ≤ 0xFF))

/-- A command word that ends neither with ERR_RESERVED nor with ERR_OPCODE (R64, R65). -/
def wordWellFormed (w : U64) : Bool := reservedClear w && opcodeLegal (w.setWidth 8)

end Sys2Proof
end

