-- ==== Sys2Proof/Decode.lean ====
section
/-! DEFINITION. Decoding a command word (30_encoding.md R59, R63, R64, R65) and the encoder written from the same map.
The engine latches the opcode and one flag for the reserved bits at acceptance (10_state.md R28) and decodes that pair
at SETUP (R61), so the decoder proper is `decodeLatched`. -/

namespace Sys2Proof

/-- The errors a command can end with (60_exceptions.md R130). The decoder rejects with the first two. -/
inductive CmdError where
  /-- ERR_RESERVED: bits 63:8 of the command word not all 0 (R131). -/
  | reserved
  /-- ERR_OPCODE: opcode not in the map (R132). -/
  | opcode
  /-- ERR_LEN: L(LEN) > MAXLEN for a command that reads INBUF (R133). -/
  | len
  /-- ERR_OPERAND: a primitive operand outside its domain (R134). -/
  | operand
  deriving DecidableEq, Repr

/-- The OPCODE field, bits 7:0 (R59). -/
def opcodeField (w : U64) : U8 := w.setWidth 8

/-- The RSV field, bits 63:8 (R59). -/
def rsvField (w : U64) : BitVec 56 := w.extractLsb' 8 56

/-- CMDRSV_L: "set if any of the command word's bits 63:8 is 1" (R28, R60). -/
def rsvSet (w : U64) : Bool := rsvField w != 0

/-- The opcode map (R63). -/
def opcodeMap (op : U8) : Option Instr :=
  match op.toNat with
  | 0x01 => some .hash32
  | 0x02 => some .hash64
  | 0x03 => some .hash64Seed
  | 0x04 => some .hash64Seeds
  | 0x10 => some .rotr32
  | 0x11 => some .rotr64
  | 0x12 => some .rotr64Al1
  | 0x13 => some .fetch32
  | 0x14 => some .fetch64
  | 0x15 => some .fmix
  | 0x16 => some .mur
  | 0x17 => some .shiftmix
  | 0x18 => some .hash128to64
  | 0x19 => some .weakhash
  | 0x1A => some .weakhashMem
  | 0x1B => some .fetch8
  | 0x1C => some .bswap32
  | _ => none

/-- What SETUP makes of the latched pair: the reserved check comes first, then the opcode (R61, R135). -/
def decodeLatched (op : U8) (rsv : Bool) : Except CmdError Instr :=
  if rsv then .error .reserved
  else
    match opcodeMap op with
    | some i => .ok i
    | none => .error .opcode

/-- Decoding of a whole command word, total on all 2^64 of them. -/
def decodeWord (w : U64) : Except CmdError Instr := decodeLatched (opcodeField w) (rsvSet w)

/-- The host's view of the decoder: the instruction read from the word whose low `nbits` bits are those of `w`. A
command is one 64-bit word written whole to CMD (R59, R67), so no byte order enters. -/
def decodeTableWord (nbits w : Nat) : Option Instr :=
  match decodeWord (BitVec.ofNat 64 (w % 2 ^ nbits)) with
  | .ok i => some i
  | .error _ => none

/-- The OPCODE of a command (R63). -/
def opcodeOf : Instr → U8
  | .hash32 => 0x01
  | .hash64 => 0x02
  | .hash64Seed => 0x03
  | .hash64Seeds => 0x04
  | .rotr32 => 0x10
  | .rotr64 => 0x11
  | .rotr64Al1 => 0x12
  | .fetch32 => 0x13
  | .fetch64 => 0x14
  | .fmix => 0x15
  | .mur => 0x16
  | .shiftmix => 0x17
  | .hash128to64 => 0x18
  | .weakhash => 0x19
  | .weakhashMem => 0x1A
  | .fetch8 => 0x1B
  | .bswap32 => 0x1C

/-- The command word of a command: RSV = 0, then the opcode (R59). -/
def encode (i : Instr) : U64 := (opcodeOf i).setWidth 64

end Sys2Proof
end

