-- ==== Sys2Proof/Machine/State.lean ====
section
/-! DEFINITION. The state of the engine as plain data (10_state.md), the reasons a step can stop, and the state after
reset. INVENTORY.md lists every field with its rule and reset value. -/

namespace Sys2Proof.Machine

/-- PHASE, the state of the command sequencer (R29). STATUS.BUSY is 1 exactly when PHASE ≠ IDLE, so BUSY has no field
of its own (DEDUCED, safe; notes/assumptions/8.md). -/
inductive Phase where
  | idle
  | setup
  | loop
  | final
  deriving DecidableEq, Repr

/-- LEN, SEED0, SEED1 and OPA..OPF (R19, R20, R21). The same nine registers are copied at acceptance (R28), so the
latched copies have this type too. -/
structure OperandRegs where
  len : U64
  seed0 : U64
  seed1 : U64
  opa : U64
  opb : U64
  opc : U64
  opd : U64
  ope : U64
  opf : U64
  deriving DecidableEq, Repr

/-- STATUS less BUSY (R23). The reserved bits read 0 and are not stored. -/
structure Status where
  done : Bool
  err : Bool
  wdrop : Bool
  errcode : U8
  deriving DecidableEq, Repr

/-- The Hash32 working registers H, G, F (R31): live in a long HASH32 only, unspecified at other times. Outside it the
model names their value after reset (notes/assumptions/6.md), frees them at FINAL (7.md), and otherwise keeps them
(DESIGN CHOICE, unsafe; 18.md). -/
structure Work32 where
  h : U32
  g : U32
  f : U32
  deriving DecidableEq, Repr

/-- The Hash64 working registers X, Y, Z, V, W (R32): live in a long Hash64-family command only. Outside it the model
names their value after reset (notes/assumptions/6.md), frees them at FINAL (7.md), and otherwise keeps them
(DESIGN CHOICE, unsafe; 18.md). -/
structure Work64 where
  x : U64
  y : U64
  z : U64
  v : U128
  w : U128
  deriving DecidableEq, Repr

/-- INBUF (20_memory.md R39): the bytes it holds, and the addresses whose written mark is set (R37). An unlisted
address has no value: nothing has written it since power-on (DESIGN CHOICE, safe; notes/assumptions/3.md). -/
structure Memory where
  cells : List Host.Cell
  marks : List Nat
  deriving DecidableEq, Repr

/-- The canonical form: addresses strictly rising, marks strictly rising, and a marked byte is listed. No listed byte
can equal what an unlisted address reads as, since that is no value. -/
abbrev Memory.wf (m : Memory) : Prop :=
  (m.cells.map Prod.fst).Pairwise (· < ·) ∧ m.marks.Pairwise (· < ·) ∧ ∀ a ∈ m.marks, a ∈ m.cells.map Prod.fst

/-- One host access (20_memory.md R46, R47; 30_encoding.md R68). A register access carries its width in bytes, so that
the forms outside the interface can be written down and refused. -/
inductive HostTxn where
  | regWrite (off width : Nat) (v : U64)
  | regRead (off width : Nat)
  | bufWrite (addr : Nat) (b : U8)
  | bufRead (addr : Nat)
  deriving DecidableEq, Repr

/-- What can happen next, in the one total order of host accesses and engine steps (20_memory.md R52): a host access,
an engine step, the reset input (70_reset_and_hazards.md R151), or the host's polling loop `wait` (30_encoding.md
R69). -/
inductive Event where
  | host (t : HostTxn)
  | engine
  | reset
  | wait
  deriving DecidableEq, Repr

/-- The whole machine. -/
structure State where
  /-- The instance's parameters (00_scope.md R11, R13; the MAXLEN register, R26). -/
  params : Params
  /-- LEN, SEED0, SEED1, OPA..OPF. -/
  regs : OperandRegs
  /-- STATUS less BUSY. -/
  status : Status
  /-- IRQEN.DONE_IE (R24). -/
  doneIe : Bool
  /-- RESULT (R25). -/
  result : U64
  /-- RESULT_HI (R25). -/
  resultHi : U64
  /-- OPCODE_L (R28). -/
  opcodeL : U8
  /-- CMDRSV_L (R28). -/
  cmdrsvL : Bool
  /-- LEN_L, SEED0_L, SEED1_L, OPA_L..OPF_L (R28). -/
  latched : OperandRegs
  /-- PHASE (R29). -/
  phase : Phase
  /-- H, G, F (R31). -/
  work32 : Work32
  /-- X, Y, Z, V, W (R32). -/
  work64 : Work64
  /-- OFF (R33). -/
  off : U64
  /-- ITERS (R33). -/
  iters : U64
  /-- INBUF and its written marks (R37). -/
  inbuf : Memory
  /-- MODEL's own: what happens next, oldest first (DESIGN CHOICE, safe; notes/assumptions/1.md). -/
  events : List Event
  /-- MODEL's own: the value the host port returned last (DESIGN CHOICE, safe; notes/assumptions/9.md). -/
  hostData : U64
  /-- MODEL's own: the number of free values drawn so far (DESIGN CHOICE, safe; notes/assumptions/7.md). -/
  draws : Nat
  deriving DecidableEq, Repr

/-- Why the machine stops with a fault. -/
inductive Fault where
  /-- Raised by a command that reads an INBUF byte whose written mark is clear: `fault(UNWRITTEN_INBUF)`
  (60_exceptions.md R149). Safe: the hardware goes on with unspecified bytes, and the model gives the run no meaning. -/
  | unwrittenInbuf
  deriving DecidableEq, Repr

/-- Why a step has no meaning. -/
inductive Refusal where
  /-- Raised by an arm of `exec` whose instruction has no meaning yet. Safe. No arm raises it. -/
  | notModelled (mnemonic : String)
  /-- Raised by a host register access that is not one aligned 64-bit access inside the window (20_memory.md R47,
  60_exceptions.md R150). Safe: the hardware's behaviour there is not specified. -/
  | outOfInterface
  deriving DecidableEq, Repr

/-- All nine registers 0 (R36). -/
def OperandRegs.zero : OperandRegs where
  len := 0
  seed0 := 0
  seed1 := 0
  opa := 0
  opb := 0
  opc := 0
  opd := 0
  ope := 0
  opf := 0

/-- STATUS = 0 (R36). -/
def Status.zero : Status where
  done := false
  err := false
  wdrop := false
  errcode := 0

/-- H, G, F after reset: the spec leaves them unspecified, the model names 0 (DESIGN CHOICE, unsafe;
notes/assumptions/6.md). -/
def Work32.zero : Work32 where
  h := 0
  g := 0
  f := 0

/-- X, Y, Z, V, W after reset: the spec leaves them unspecified, the model names 0 (DESIGN CHOICE, unsafe;
notes/assumptions/6.md). -/
def Work64.zero : Work64 where
  x := 0
  y := 0
  z := 0
  v := ⟨0, 0⟩
  w := ⟨0, 0⟩

/-- The engine right after its first reset (R36): every register at its reset value, nothing ever written to INBUF
(R37), nothing yet to come from outside. -/
def State.reset : State where
  params := Params.default
  regs := OperandRegs.zero
  status := Status.zero
  doneIe := false
  result := 0
  resultHi := 0
  opcodeL := 0
  cmdrsvL := false
  latched := OperandRegs.zero
  phase := .idle
  work32 := Work32.zero
  work64 := Work64.zero
  off := 0
  iters := 0
  inbuf := ⟨[], []⟩
  events := []
  hostData := 0
  draws := 0

end Sys2Proof.Machine
end

