-- ==== Sys2Proof/Machine/Flags.lean ====
section
/-! DEFINITION. STATUS, IRQEN and `irq`: their views as words, and every rule that sets or clears a flag
(10_state.md R23, R24; 60_exceptions.md R130, R139, R142). -/

namespace Sys2Proof.Machine

/-- STATUS.BUSY = 1 exactly when PHASE ≠ IDLE (R29). -/
def Phase.busy : Phase → Bool
  | .idle => false
  | .setup => true
  | .loop => true
  | .final => true

/-- STATUS.BUSY (R23). -/
def State.busy (s : State) : Bool := s.phase.busy

/-- STATUS as the host reads it (R23): ERRCODE in bits 15:8, WDROP, ERR, DONE, BUSY in bits 3:0, every other bit 0. -/
def statusWord (s : State) : U64 :=
  0#48 ++ s.status.errcode ++ 0#4 ++ BitVec.ofBool s.status.wdrop ++ BitVec.ofBool s.status.err ++
    BitVec.ofBool s.status.done ++ BitVec.ofBool s.busy

/-- IRQEN as the host reads it (R24): DONE_IE in bit 0, every other bit 0. -/
def irqenWord (s : State) : U64 := (BitVec.ofBool s.doneIe).setWidth 64

/-- `irq = R(STATUS).DONE & R(IRQEN).DONE_IE` (R139). -/
def irq (s : State) : Bool := s.status.done && s.doneIe

/-- A bit that a host write of 1 clears (R18, W1C). -/
def w1c (old written : Bool) : Bool := old && !written

/-- A host write to STATUS: bits 1 (DONE) and 3 (WDROP) are W1C, every other bit is ignored (R23). -/
def Status.hostWrite (st : Status) (v : U64) : Status :=
  { st with done := w1c st.done (v.getLsbD 1), wdrop := w1c st.wdrop (v.getLsbD 3) }

/-- A dropped host write: WDROP is sticky (R23, R142). -/
def Status.drop (st : Status) : Status := { st with wdrop := true }

/-- Acceptance of a command clears DONE, ERR and ERRCODE and leaves WDROP (30_encoding.md R60). -/
def Status.accept (st : Status) : Status := { st with done := false, err := false, errcode := 0 }

/-- Normal completion: DONE = 1, ERR = 0, ERRCODE = 0, WDROP unchanged (R137). -/
def Status.complete (st : Status) : Status := { st with done := true, err := false, errcode := 0 }

/-- The error codes (R130). -/
def CmdError.code : CmdError → U8
  | .reserved => 0x01
  | .opcode => 0x02
  | .len => 0x03
  | .operand => 0x04

/-- Error completion: DONE = 1, ERR = 1, the code in ERRCODE, WDROP unchanged (R136). -/
def Status.fail (st : Status) (e : CmdError) : Status :=
  { st with done := true, err := true, errcode := CmdError.code e }

end Sys2Proof.Machine
end

