-- ==== Sys2Proof/Machine/Ops.lean ====
section
/-! DEFINITION. The named operations over INBUF and the registers: reading and writing INBUF (20_memory.md), accepting a
command (30_encoding.md R60), its two completions (60_exceptions.md R136, R137), the long path's counters, and reset
(70_reset_and_hazards.md). The engine has no traps (R129): the error completion is the one shared operation that stands
where another machine takes an exception, and there is no return from it. -/

namespace Sys2Proof.Machine

/-- The outcome of a step of this machine. -/
abbrev Result := Host.Outcome State Fault Refusal

/-! ### INBUF -/

/-- The byte listed at an address. -/
def lookupCell : List Host.Cell → Nat → Option U8
  | [], _ => none
  | (k, v) :: rest, a => if k = a then some v else lookupCell rest a

/-- Writing one byte, keeping the addresses strictly rising. -/
def insertCell : List Host.Cell → Nat → U8 → List Host.Cell
  | [], a, b => [(a, b)]
  | (k, v) :: rest, a, b =>
    if a < k then (a, b) :: (k, v) :: rest
    else if a = k then (a, b) :: rest
    else (k, v) :: insertCell rest a b

/-- Setting one written mark, keeping the addresses strictly rising. -/
def insertMark : List Nat → Nat → List Nat
  | [], a => [a]
  | k :: rest, a => if a < k then a :: k :: rest else if a = k then k :: rest else k :: insertMark rest a

/-- The byte INBUF holds at an address, written mark or not (R37: reset keeps the contents). -/
def Memory.contents (m : Memory) (a : Nat) : Option U8 := lookupCell m.cells a

/-- The written mark of an address (R37). -/
def Memory.marked (m : Memory) (a : Nat) : Bool := m.marks.contains a

/-- One byte as a command may read it: no value unless its written mark is set (R37, 60_exceptions.md R149). -/
def Memory.readByte (m : Memory) (a : Nat) : Option U8 := if m.marked a then m.contents a else none

/-- `MemWrite(a, 1, b)` and the written mark (R46). -/
def Memory.writeByte (m : Memory) (a : Nat) (b : U8) : Memory := ⟨insertCell m.cells a b, insertMark m.marks a⟩

/-- Reset clears every written mark and keeps the contents (R37, 70_reset_and_hazards.md R153). -/
def Memory.clearMarks (m : Memory) : Memory := ⟨m.cells, []⟩

/-- `MemRead(addr, k)` as a natural number, little-endian: the byte at the lowest address is the least significant
(R41). Any address will do (R43). No value if one of the bytes has none. -/
def memRead (m : Memory) (addr : Nat) : Nat → Option Nat
  | 0 => some 0
  | k + 1 => do
    let b ← m.readByte addr
    let rest ← memRead m (addr + 1) k
    pure (b.toNat + 256 * rest)

/-- `fetch8` (40_primitives.md R73). -/
def fetch8 (m : Memory) (off : Nat) : Option U8 := (memRead m off 1).map (BitVec.ofNat 8)

/-- `fetch32` (40_primitives.md R74). -/
def fetch32 (m : Memory) (off : Nat) : Option U32 := (memRead m off 4).map (BitVec.ofNat 32)

/-- `fetch64` (40_primitives.md R75). -/
def fetch64 (m : Memory) (off : Nat) : Option U64 := (memRead m off 8).map (BitVec.ofNat 64)

/-- Byte `i` of a word, little-endian. -/
def byteOf (v : U64) (i : Nat) : U8 := v.extractLsb' (8 * i) 8

/-- The 16-byte little-endian layout of a `U128`: "lower lane's 8 bytes first, then higher lane's 8 bytes"
(10_state.md R30). -/
def U128.bytes (x : U128) : List U8 := (List.range 8).map (byteOf x.lo) ++ (List.range 8).map (byteOf x.hi)

/-! ### A command's life -/

/-- Command acceptance (R60): latch the word and the nine operand registers, clear DONE, ERR and ERRCODE, PHASE to
SETUP. The word is not checked here. -/
def accept (word : U64) (s : State) : State :=
  { s with
    opcodeL := opcodeField word
    cmdrsvL := rsvSet word
    latched := s.regs
    status := s.status.accept
    phase := .setup }

/-- `raise Error(code)`, the error completion (R136): RESULT, RESULT_HI, WDROP and INBUF unchanged. That the working
registers and counters stay too is the model's (DESIGN CHOICE, unsafe; notes/assumptions/18.md). -/
def raiseError (e : CmdError) (s : State) : State := { s with status := s.status.fail e, phase := .idle }

/-- `complete(result, —)` (R137): RESULT_HI unchanged. That the working registers and counters stay too is the model's
(DESIGN CHOICE, unsafe; notes/assumptions/18.md). -/
def complete (result : U64) (s : State) : State :=
  { s with result := result, status := s.status.complete, phase := .idle }

/-- `complete(result, result_hi)` of the two WEAKHASH commands (R137). That the working registers and counters stay is the
model's (DESIGN CHOICE, unsafe; notes/assumptions/18.md). -/
def completePair (r : U128) (s : State) : State :=
  { s with result := r.lo, resultHi := r.hi, status := s.status.complete, phase := .idle }

/-- A command's continuation after reading INBUF: a byte without a value is the model's fault (R149). -/
def readOrFault {α : Type} (read : Option α) (k : α → State) : Result :=
  match read with
  | none => .fault .unwrittenInbuf
  | some a => .next (k a)

/-! ### The long path -/

/-- The end of a long SETUP step (41_hash32.md R102, 42_hash64.md R118): OFF = 0, ITERS, PHASE to LOOP. -/
def startLoop (chunks : U64) (s : State) : State := { s with off := 0, iters := chunks, phase := .loop }

/-- The end of a LOOP step (R103, R119): OFF += chunk, ITERS -= 1, and PHASE to FINAL when ITERS is 0. -/
def advanceLoop (chunk : U64) (s : State) : State :=
  { s with
    off := s.off + chunk
    iters := s.iters - 1
    phase := if s.iters - 1 = 0 then .final else .loop }

/-- H, G, F after the FINAL step: "not observable and ... unspecified" (10_state.md R31), so free values
(DESIGN CHOICE, safe; notes/assumptions/7.md). -/
def retire32 (s : State) : State :=
  { s with
    work32 := ⟨Config.freeU32 s.draws, Config.freeU32 (s.draws + 1), Config.freeU32 (s.draws + 2)⟩
    draws := s.draws + 3 }

/-- X, Y, Z, V, W after the FINAL step: not live and not observable (10_state.md R32), so free values
(DESIGN CHOICE, safe; notes/assumptions/7.md). -/
def retire64 (s : State) : State :=
  { s with
    work64 :=
      ⟨Config.freeU64 s.draws, Config.freeU64 (s.draws + 1), Config.freeU64 (s.draws + 2),
        ⟨Config.freeU64 (s.draws + 3), Config.freeU64 (s.draws + 4)⟩,
        ⟨Config.freeU64 (s.draws + 5), Config.freeU64 (s.draws + 6)⟩⟩
    draws := s.draws + 7 }

/-! ### Reset -/

/-- The reset input (R151 to R153): every register takes its reset value (10_state.md R36), PHASE is IDLE, INBUF keeps
its contents and loses every written mark. The instance's parameters and what is still to come from outside stay
(DESIGN CHOICE, safe; notes/assumptions/10.md). -/
def applyReset (s : State) : State :=
  { s with
    regs := OperandRegs.zero
    status := Status.zero
    doneIe := false
    result := 0
    resultHi := 0
    opcodeL := 0
    cmdrsvL := false
    latched := OperandRegs.zero
    phase := .idle
    work32 := Work32.zero
    work64 := Work64.zero
    off := 0
    iters := 0
    inbuf := s.inbuf.clearMarks }

end Sys2Proof.Machine
end

