-- ==== Sys2Proof/Machine/Operands.lean ====
section
/-! DEFINITION. Operand assembly (30_encoding.md R62): every operand is a latched register or its low half; and the two
checks of SETUP that come after decoding, ERR_LEN and ERR_OPERAND (R61, 60_exceptions.md R133, R134). -/

namespace Sys2Proof.Machine

/-- A 32-bit operand: bits 31:0 of its register, bits 63:32 ignored (R62). -/
def low32 (v : U64) : U32 := v.setWidth 32

/-- "Each 32-bit result is zero-extended into RESULT" (R62). -/
def zext64 (v : U32) : U64 := v.setWidth 64

/-- `n32 = trunc_32(n)` (00_scope.md R14). -/
def n32 (n : U64) : U32 := n.setWidth 32

/-- L(LEN). -/
def lenL (s : State) : U64 := s.latched.len

/-- L(LEN) > MAXLEN (R133). -/
def lenTooBig (s : State) : Bool := s.params.maxlen.toNat < s.latched.len.toNat

/-- The memory primitives' bound: `off + k > L(LEN)`, "computed as a natural number, without wrap"
(40_primitives.md R83). -/
def pastBound (off : U64) (k : Nat) (s : State) : Bool := s.latched.len.toNat < off.toNat + k

/-- The ERR_LEN check, before the operand check (R61, R135). -/
def checkLen (s : State) (k : Result) : Result := if lenTooBig s then .next (raiseError .len s) else k

/-- The operand check of a command (R61, R134). -/
def checkOperand (bad : Bool) (s : State) (k : Result) : Result := if bad then .next (raiseError .operand s) else k

end Sys2Proof.Machine
end

