-- ==== Sys2Proof/Machine/Primitives.lean ====
section
/-! DEFINITION. The primitive operations as functions (40_primitives.md R70 to R72, R76 to R82) and the constants the
source fixes (00_scope.md R12). A shift amount's type is its domain, so no rotation by the full width can be written
(93 U1, U9). -/

namespace Sys2Proof.Machine

/-- `kMul` (R12). -/
def kMul : U64 := 0x9ddfea08eb382d69

/-- The two multipliers of `fmix` (R12). -/
def fmixMul1 : U32 := 0x85ebca6b

/-- The second multiplier of `fmix` (R12). -/
def fmixMul2 : U32 := 0xc2b2ae35

/-- The additive constant of `mur` and Hash32 (R12). -/
def murConst : U32 := 0xe6546b64

/-- `rotate32`, a right rotation, the identity on shift 0 by an explicit branch (R70). -/
def rotate32 (val : U32) (shift : Fin 32) : U32 :=
  if shift.val = 0 then val else (val >>> shift.val) ||| (val <<< (32 - shift.val))

/-- `rotate64`, a right rotation, the identity on shift 0 by an explicit branch (R71). -/
def rotate64 (val : U64) (shift : Fin 64) : U64 :=
  if shift.val = 0 then val else (val >>> shift.val) ||| (val <<< (64 - shift.val))

/-- `rotateByAtLeast1`: the caller guarantees 1 ≤ shift ≤ 63, "no zero-guard needed" (R72). -/
def rotateByAtLeast1 (val : U64) (shift : Nat) (_ : 1 ≤ shift ∧ shift ≤ 63) : U64 :=
  (val >>> shift) ||| (val <<< (64 - shift))

/-- `fmix`, the 32-bit avalanche finisher (R76). -/
def fmix (h : U32) : U32 :=
  let h := h ^^^ (h >>> 16)
  let h := h * fmixMul1
  let h := h ^^^ (h >>> 13)
  let h := h * fmixMul2
  h ^^^ (h >>> 16)

/-- `mur`, the "32-bit Murmur-style combine" (R77). -/
def mur (p : Params) (a h : U32) : U32 :=
  let a := a * p.c1
  let a := rotate32 a 17
  let a := a * p.c2
  let h := h ^^^ a
  let h := rotate32 h 19
  h * 5 + murConst

/-- `shiftMix`, the 64-bit avalanche (R78). -/
def shiftMix (v : U64) : U64 := v ^^^ (v >>> 47)

/-- `hash128to64`, the compression of two lanes (R79). -/
def hash128to64 (x : U128) : U64 :=
  let a := (x.lo ^^^ x.hi) * kMul
  let a := a ^^^ (a >>> 47)
  let b := (x.hi ^^^ a) * kMul
  let b := b ^^^ (b >>> 47)
  b * kMul

/-- `hashLen16(u, v)`, the name of `hash128to64` on two raw operands (R79). -/
def hashLen16 (u v : U64) : U64 := hash128to64 ⟨u, v⟩

/-- `weakHashLen32WithSeeds`, word form (R80). -/
def weakHash (w x y z a b : U64) : U128 :=
  let a := a + w
  let b := rotate64 (b + a + z) 21
  let c := a
  let a := a + (x + y)
  let b := b + rotate64 a 44
  ⟨a + z, b + c⟩

/-- `weakHashLen32WithSeeds`, memory form: four consecutive little-endian words at `off` (R81). -/
def weakHashMem (m : Memory) (off : Nat) (a b : U64) : Option U128 := do
  let w ← fetch64 m off
  let x ← fetch64 m (off + 8)
  let y ← fetch64 m (off + 16)
  let z ← fetch64 m (off + 24)
  pure (weakHash w x y z a b)

/-- `bswap32`, the byte reversal of a 32-bit word (R82). -/
def bswap32 (v : U32) : U32 :=
  ((v.extractLsb' 0 8).setWidth 32 <<< 24) ||| ((v.extractLsb' 8 8).setWidth 32 <<< 16) |||
    ((v.extractLsb' 16 8).setWidth 32 <<< 8) ||| (v.extractLsb' 24 8).setWidth 32

end Sys2Proof.Machine
end

