-- ==== Sys2Proof/Machine/Hash32.lean ====
section
/-! DEFINITION. Hash32 (41_hash32.md): the three short formulas, the 20-byte chunk processor, the function view, and the
meaning of HASH32. Offsets are natural numbers taken from the full length `n`; where `n` enters 32-bit arithmetic it is
`n32 n` (00_scope.md R14). A reading function has no value if a byte it reads has none. -/

namespace Sys2Proof.Machine

/-! ### Short-input mixers -/

/-- The byte fold of `hash32Len0to4` over `k` bytes from byte `i` (R98): each byte is SIGN-extended. -/
def hash32Fold (p : Params) (m : Memory) : Nat → Nat → U32 → U32 → Option (U32 × U32)
  | _, 0, b, c => some (b, c)
  | i, k + 1, b, c => do
    let x ← fetch8 m i
    let b := b * p.c1 + x.signExtend 32
    let c := c ^^^ b
    hash32Fold p m (i + 1) k b c

/-- `hash32Len0to4` (R98). -/
def hash32Len0to4 (p : Params) (m : Memory) (n : U64) : Option U32 := do
  let (b, c) ← hash32Fold p m 0 n.toNat 0 9
  pure (fmix (mur p b (mur p (n32 n) c)))

/-- `hash32Len5to12` (R99): `d` keeps n32·5 from before `b` is updated. -/
def hash32Len5to12 (p : Params) (m : Memory) (n : U64) : Option U32 := do
  let a := n32 n
  let b := n32 n * 5
  let c : U32 := 9
  let d := b
  let a := a + (← fetch32 m 0)
  let b := b + (← fetch32 m (n.toNat - 4))
  let c := c + (← fetch32 m ((n.toNat / 2) &&& 4))
  pure (fmix (mur p c (mur p b (mur p a d))))

/-- `hash32Len13to24` (R100): six nested `mur` (90_conflicts.md C9). -/
def hash32Len13to24 (p : Params) (m : Memory) (n : U64) : Option U32 := do
  let a ← fetch32 m (n.toNat / 2 - 4)
  let b ← fetch32 m 4
  let c ← fetch32 m (n.toNat - 8)
  let d ← fetch32 m (n.toNat / 2)
  let e ← fetch32 m 0
  let f ← fetch32 m (n.toNat - 4)
  let h := n32 n
  pure (fmix (mur p f (mur p e (mur p d (mur p c (mur p b (mur p a h)))))))

/-- Bands 1 to 3 of the dispatch (R97), for n ≤ 24. -/
def hash32Short (p : Params) (m : Memory) (n : U64) : Option U32 :=
  if n.toNat ≤ 4 then hash32Len0to4 p m n
  else if n.toNat ≤ 12 then hash32Len5to12 p m n
  else hash32Len13to24 p m n

/-! ### The 20-byte chunk processor -/

/-- `premix32` (R101): a RIGHT rotation by 17 (90_conflicts.md C4). -/
def premix32 (p : Params) (x : U32) : U32 := rotate32 (x * p.c1) 17 * p.c2

/-- `mix5` (R101). -/
def mix5 (h : U32) : U32 := h * 5 + murConst

/-- The working state of the SETUP step for n ≥ 25 (R102). -/
def hash32Init (p : Params) (m : Memory) (n : U64) : Option Work32 := do
  let N := n.toNat
  let h := n32 n
  let g := n32 n * p.c1
  let f := g
  let a0 := premix32 p (← fetch32 m (N - 4))
  let a1 := premix32 p (← fetch32 m (N - 8))
  let a2 := premix32 p (← fetch32 m (N - 16))
  let a3 := premix32 p (← fetch32 m (N - 12))
  let a4 := premix32 p (← fetch32 m (N - 20))
  let h := h ^^^ a0
  let h := mix5 (rotate32 h 19)
  let h := h ^^^ a2
  let h := mix5 (rotate32 h 19)
  let g := g ^^^ a1
  let g := mix5 (rotate32 g 19)
  let g := g ^^^ a3
  let g := mix5 (rotate32 g 19)
  let f := f + a4
  let f := mix5 (rotate32 f 19)
  pure ⟨h, g, f⟩

/-- The update of one LOOP step for the chunk at `off` (R103). -/
def hash32Chunk (p : Params) (m : Memory) (off : Nat) (w : Work32) : Option Work32 := do
  let a0 := premix32 p (← fetch32 m (off + 0))
  let a1 ← fetch32 m (off + 4)
  let a2 := premix32 p (← fetch32 m (off + 8))
  let a3 := premix32 p (← fetch32 m (off + 12))
  let a4 ← fetch32 m (off + 16)
  let h := w.h
  let g := w.g
  let f := w.f
  let h := h ^^^ a0
  let h := rotate32 h 18
  let h := mix5 h
  let f := f + a1
  let f := rotate32 f 19
  let f := f * p.c1
  let g := g + a2
  let g := rotate32 g 18
  let g := mix5 g
  let h := h ^^^ (a3 + a1)
  let h := rotate32 h 19
  let h := mix5 h
  let g := g ^^^ a4
  let g := bswap32 g * 5
  let h := h + a4 * 5
  let h := bswap32 h
  let f := f + a0
  -- (F, H, G) <- (G, F, H)
  pure { f := g, h := f, g := h }

/-- The digest of the FINAL step (R104). -/
def hash32Finish (p : Params) (w : Work32) : U32 :=
  let g := rotate32 w.g 11 * p.c1
  let g := rotate32 g 17 * p.c1
  let f := rotate32 w.f 11 * p.c1
  let f := rotate32 f 17 * p.c1
  let h := rotate32 (w.h + g) 19
  let h := mix5 h
  let h := rotate32 h 17 * p.c1
  let h := rotate32 (h + f) 19
  let h := mix5 h
  rotate32 h 17 * p.c1

/-- ⌊(n−1)/20⌋, the number of 20-byte chunks (R102). -/
def chunks32 (n : U64) : Nat := (n.toNat - 1) / 20

/-! ### The function view -/

/-- Rule R103 run `k` times from the chunk at `off`. -/
def hash32Chunks (p : Params) (m : Memory) : Nat → Nat → Work32 → Option Work32
  | 0, _, w => some w
  | k + 1, off, w => do
    let w ← hash32Chunk p m off w
    hash32Chunks p m k (off + 20) w

/-- `hash32(s, n)` (R106). -/
def hash32View (p : Params) (m : Memory) (n : U64) : Option U32 :=
  if n.toNat ≤ 24 then hash32Short p m n
  else do
    let w ← hash32Init p m n
    let w ← hash32Chunks p m (chunks32 n) 0 w
    pure (hash32Finish p w)

/-! ### The command -/

/-- The SETUP part of HASH32 (R107): a short band completes, a long input enters the loop. -/
def hash32Setup (s : State) : Result :=
  checkLen s
    (if s.latched.len.toNat ≤ 24 then
      readOrFault (hash32Short s.params s.inbuf s.latched.len) fun d => complete (zext64 d) s
    else
      readOrFault (hash32Init s.params s.inbuf s.latched.len) fun w =>
        startLoop (BitVec.ofNat 64 (chunks32 s.latched.len)) { s with work32 := w })

/-- The LOOP step of HASH32 (R103). -/
def hash32Loop (s : State) : Result :=
  readOrFault (hash32Chunk s.params s.inbuf s.off.toNat s.work32) fun w => advanceLoop 20 { s with work32 := w }

/-- The FINAL step of HASH32 (R104, R107). -/
def hash32Final (s : State) : Result :=
  .next (complete (zext64 (hash32Finish s.params s.work32)) (retire32 s))

/-- HASH32 (R107): the engine's step in the command's current phase. An idle engine runs no command; `step` does not
call a meaning then, and IDLE is read as SETUP (notes/assumptions/12.md). -/
def execHash32 (s : State) : Result :=
  match s.phase with
  | .idle => hash32Setup s
  | .setup => hash32Setup s
  | .loop => hash32Loop s
  | .final => hash32Final s

end Sys2Proof.Machine
end

