-- ==== Sys2Proof/Machine/PrimitiveCmds.lean ====
section
/-! DEFINITION. The thirteen primitive commands (40_primitives.md R84 to R96). Each completes in its SETUP step, so its
meaning does not look at PHASE; decoding has already passed the word's own checks (DESIGN CHOICE, safe: `step` runs a
command only while BUSY, and a primitive leaves SETUP for IDLE; notes/assumptions/12.md). -/

namespace Sys2Proof.Machine

/-- ROTR32 (R84): ERR_OPERAND if shift > 31. -/
def execRotr32 (s : State) : Result :=
  if h : s.latched.opb.toNat < 32 then
    .next (complete (zext64 (rotate32 (low32 s.latched.opa) ⟨s.latched.opb.toNat, h⟩)) s)
  else .next (raiseError .operand s)

/-- ROTR64 (R85): ERR_OPERAND if shift > 63. -/
def execRotr64 (s : State) : Result :=
  if h : s.latched.opb.toNat < 64 then
    .next (complete (rotate64 s.latched.opa ⟨s.latched.opb.toNat, h⟩) s)
  else .next (raiseError .operand s)

/-- ROTR64_AL1 (R86): ERR_OPERAND if shift = 0 or shift > 63. -/
def execRotr64Al1 (s : State) : Result :=
  if h : 1 ≤ s.latched.opb.toNat ∧ s.latched.opb.toNat ≤ 63 then
    .next (complete (rotateByAtLeast1 s.latched.opa s.latched.opb.toNat h) s)
  else .next (raiseError .operand s)

/-- FETCH32 (R87): ERR_LEN, then ERR_OPERAND. -/
def execFetch32 (s : State) : Result :=
  checkLen s (checkOperand (pastBound s.latched.opa 4 s) s
    (readOrFault (fetch32 s.inbuf s.latched.opa.toNat) fun v => complete (zext64 v) s))

/-- FETCH64 (R88): ERR_LEN, then ERR_OPERAND. -/
def execFetch64 (s : State) : Result :=
  checkLen s (checkOperand (pastBound s.latched.opa 8 s) s
    (readOrFault (fetch64 s.inbuf s.latched.opa.toNat) fun v => complete v s))

/-- FMIX (R89). -/
def execFmix (s : State) : Result := .next (complete (zext64 (fmix (low32 s.latched.opa))) s)

/-- MUR (R90): `a` is OPA, `h` is OPB. -/
def execMur (s : State) : Result :=
  .next (complete (zext64 (mur s.params (low32 s.latched.opa) (low32 s.latched.opb))) s)

/-- SHIFTMIX (R91). -/
def execShiftmix (s : State) : Result := .next (complete (shiftMix s.latched.opa) s)

/-- HASH128TO64 (R92): lower lane OPA, higher lane OPB. -/
def execHash128to64 (s : State) : Result := .next (complete (hash128to64 ⟨s.latched.opa, s.latched.opb⟩) s)

/-- WEAKHASH (R93): RESULT and RESULT_HI are both written. -/
def execWeakhash (s : State) : Result :=
  .next (completePair
    (weakHash s.latched.opa s.latched.opb s.latched.opc s.latched.opd s.latched.ope s.latched.opf) s)

/-- WEAKHASH_MEM (R94): ERR_LEN, then ERR_OPERAND. -/
def execWeakhashMem (s : State) : Result :=
  checkLen s (checkOperand (pastBound s.latched.opa 32 s) s
    (readOrFault (weakHashMem s.inbuf s.latched.opa.toNat s.latched.opb s.latched.opc) fun r => completePair r s))

/-- FETCH8 (R95): ERR_LEN, then ERR_OPERAND; the byte is zero-extended. -/
def execFetch8 (s : State) : Result :=
  checkLen s (checkOperand (pastBound s.latched.opa 1 s) s
    (readOrFault (fetch8 s.inbuf s.latched.opa.toNat) fun v => complete (v.setWidth 64) s))

/-- BSWAP32 (R96). -/
def execBswap32 (s : State) : Result := .next (complete (zext64 (bswap32 (low32 s.latched.opa))) s)

end Sys2Proof.Machine
end

