-- ==== Sys2Proof/Machine/Hash64.lean ====
section
/-! DEFINITION. Hash64 (42_hash64.md): the three formula bands, the 64-byte chunk processor, the function view, and the
steps of a Hash64-family command, with the post-processing of the seeded forms as a parameter (43_hash64_seeded.md
R126). -/

namespace Sys2Proof.Machine

/-! ### Band 0..16 -/

/-- `hashLen0to16`, branch 9 ≤ len ≤ 16 (R110). The length is the rotation, so it is passed with its bound. -/
def hashLen9to16 (m : Memory) (n : U64) (h : 1 ≤ n.toNat ∧ n.toNat ≤ 63) : Option U64 := do
  let a ← fetch64 m 0
  let b ← fetch64 m (n.toNat - 8)
  pure (hash128to64 ⟨a, rotateByAtLeast1 (b + n) n.toNat h⟩ ^^^ b)

/-- `hashLen0to16`, branch 4 ≤ len ≤ 8 (R111): a 64-bit shift of the zero-extended word. -/
def hashLen4to8 (m : Memory) (n : U64) : Option U64 := do
  let a := zext64 (← fetch32 m 0)
  let b := zext64 (← fetch32 m (n.toNat - 4))
  pure (hash128to64 ⟨n + (a <<< 3), b⟩)

/-- `hashLen0to16`, branch 1 ≤ len ≤ 3 (R112): the bytes are zero-extended. -/
def hashLen1to3 (p : Params) (m : Memory) (n : U64) : Option U64 := do
  let a ← fetch8 m 0
  let b ← fetch8 m (n.toNat / 2)
  let c ← fetch8 m (n.toNat - 1)
  let y : U32 := a.setWidth 32 + (b.setWidth 32 <<< 8)
  let z : U32 := n32 n + (c.setWidth 32 <<< 2)
  pure (shiftMix (zext64 y * p.k2 ^^^ zext64 z * p.k3) * p.k2)

/-- `hashLen0to16(s, 0, n)`, the sub-dispatch on the length (R109); the empty input gives K2 (R113). -/
def hashLen0to16 (p : Params) (m : Memory) (n : U64) : Option U64 :=
  if h : 9 ≤ n.toNat ∧ n.toNat ≤ 16 then
    hashLen9to16 m n ⟨Nat.le_trans (by decide) h.1, Nat.le_trans h.2 (by decide)⟩
  else if 4 ≤ n.toNat then hashLen4to8 m n
  else if 1 ≤ n.toNat then hashLen1to3 p m n
  else some p.k2

/-! ### Bands 17..32 and 33..64 -/

/-- `hashLen17to32` (R114). -/
def hashLen17to32 (p : Params) (m : Memory) (n : U64) : Option U64 := do
  let a := (← fetch64 m 0) * p.k1
  let b ← fetch64 m 8
  let c := (← fetch64 m (n.toNat - 8)) * p.k2
  let d := (← fetch64 m (n.toNat - 16)) * p.k0
  pure (hash128to64 ⟨rotate64 (a - b) 43 + rotate64 c 30 + d, a + rotate64 (b ^^^ p.k3) 20 - c + n⟩)

/-- The front view of `hashLen33to64` (R115), as (vFast, vSlow). -/
def frontView (p : Params) (m : Memory) (n : U64) : Option (U64 × U64) := do
  let z ← fetch64 m 24
  let a := (← fetch64 m 0) + (n + (← fetch64 m (n.toNat - 16))) * p.k0
  let b := rotate64 (a + z) 52
  let c := rotate64 a 37
  let a := a + (← fetch64 m 8)
  let c := c + rotate64 a 7
  let a := a + (← fetch64 m 16)
  pure (a + z, b + rotate64 a 31 + c)

/-- The back view of `hashLen33to64` (R116), as (wFast, wSlow). -/
def backView (m : Memory) (n : U64) : Option (U64 × U64) := do
  let a := (← fetch64 m 16) + (← fetch64 m (n.toNat - 32))
  let z ← fetch64 m (n.toNat - 8)
  let b := rotate64 (a + z) 52
  let c := rotate64 a 37
  let a := a + (← fetch64 m (n.toNat - 24))
  let c := c + rotate64 a 7
  let a := a + (← fetch64 m (n.toNat - 16))
  pure (a + z, b + rotate64 a 31 + c)

/-- `hashLen33to64`, the combination (R117). -/
def hashLen33to64 (p : Params) (m : Memory) (n : U64) : Option U64 := do
  let (vFast, vSlow) ← frontView p m n
  let (wFast, wSlow) ← backView m n
  let r := shiftMix ((vFast + wSlow) * p.k2 + (wFast + vSlow) * p.k0)
  pure (shiftMix (r * p.k0 + vSlow) * p.k2)

/-- Rows 1 to 3 of the dispatch (R108), for n ≤ 64. -/
def hash64Short (p : Params) (m : Memory) (n : U64) : Option U64 :=
  if n.toNat ≤ 16 then hashLen0to16 p m n
  else if n.toNat ≤ 32 then hashLen17to32 p m n
  else hashLen33to64 p m n

/-! ### The 64-byte chunk processor -/

/-- The working state of the SETUP step for n ≥ 65 (R118): W uses X from before its update. -/
def hash64Init (p : Params) (m : Memory) (n : U64) : Option Work64 := do
  let N := n.toNat
  let x ← fetch64 m (N - 40)
  let y := (← fetch64 m (N - 16)) + (← fetch64 m (N - 56))
  let z := hash128to64 ⟨(← fetch64 m (N - 48)) + n, ← fetch64 m (N - 24)⟩
  let v ← weakHashMem m (N - 64) n z
  let w ← weakHashMem m (N - 32) (y + p.k1) x
  let x := x * p.k1 + (← fetch64 m 0)
  pure ⟨x, y, z, v, w⟩

/-- The update of one LOOP step for the chunk at `off`, in statement order (R119). -/
def hash64Chunk (p : Params) (m : Memory) (off : Nat) (s : Work64) : Option Work64 := do
  let x := rotate64 (s.x + s.y + s.v.lo + (← fetch64 m (off + 8))) 37 * p.k1
  let y := rotate64 (s.y + s.v.hi + (← fetch64 m (off + 48))) 42 * p.k1
  let x := x ^^^ s.w.hi
  let y := y + (s.v.lo + (← fetch64 m (off + 40)))
  let z := rotate64 (s.z + s.w.lo) 33 * p.k1
  let v ← weakHashMem m off (s.v.hi * p.k1) (x + s.w.lo)
  let w ← weakHashMem m (off + 32) (z + s.w.hi) (y + (← fetch64 m (off + 16)))
  -- swap(X, Z)
  pure { x := z, y := y, z := x, v := v, w := w }

/-- The digest of the FINAL step (R120). -/
def hash64Finish (p : Params) (s : Work64) : U64 :=
  hash128to64
    ⟨hash128to64 ⟨s.v.lo, s.w.lo⟩ + shiftMix s.y * p.k1 + s.z, hash128to64 ⟨s.v.hi, s.w.hi⟩ + s.x⟩

/-- ⌊(n−1)/64⌋, the number of 64-byte chunks (R118). -/
def chunks64 (n : U64) : Nat := (n.toNat - 1) / 64

/-! ### The function view -/

/-- Rule R119 run `k` times from the chunk at `off`. -/
def hash64Chunks (p : Params) (m : Memory) : Nat → Nat → Work64 → Option Work64
  | 0, _, w => some w
  | k + 1, off, w => do
    let w ← hash64Chunk p m off w
    hash64Chunks p m k (off + 64) w

/-- `hash64(s, n)` (R122). -/
def hash64View (p : Params) (m : Memory) (n : U64) : Option U64 :=
  if n.toNat ≤ 64 then hash64Short p m n
  else do
    let w ← hash64Init p m n
    let w ← hash64Chunks p m (chunks64 n) 0 w
    pure (hash64Finish p w)

/-! ### The steps of a Hash64-family command

`post` is what the command makes of the digest "in the step that produces `digest64`" (43_hash64_seeded.md R126). -/

/-- The SETUP part (R123): rows 1 to 3 complete, a long input enters the loop. -/
def hash64Setup (post : U64 → U64) (s : State) : Result :=
  checkLen s
    (if s.latched.len.toNat ≤ 64 then
      readOrFault (hash64Short s.params s.inbuf s.latched.len) fun d => complete (post d) s
    else
      readOrFault (hash64Init s.params s.inbuf s.latched.len) fun w =>
        startLoop (BitVec.ofNat 64 (chunks64 s.latched.len)) { s with work64 := w })

/-- The LOOP step (R119). -/
def hash64Loop (s : State) : Result :=
  readOrFault (hash64Chunk s.params s.inbuf s.off.toNat s.work64) fun w => advanceLoop 64 { s with work64 := w }

/-- The FINAL step (R120). -/
def hash64Final (post : U64 → U64) (s : State) : Result :=
  .next (complete (post (hash64Finish s.params s.work64)) (retire64 s))

/-- A Hash64-family command's step in its current phase. An idle engine runs no command; `step` does not call a meaning
then, and IDLE is read as SETUP (notes/assumptions/12.md). -/
def hash64Step (post : U64 → U64) (s : State) : Result :=
  match s.phase with
  | .idle => hash64Setup post s
  | .setup => hash64Setup post s
  | .loop => hash64Loop s
  | .final => hash64Final post s

/-- HASH64 (R123): the digest itself. -/
def execHash64 (s : State) : Result := hash64Step (fun d => d) s

end Sys2Proof.Machine
end

