-- ==== Sys2Proof/Machine/Seeded.lean ====
section
/-! DEFINITION. The seeded Hash64 commands (43_hash64_seeded.md): "pure post-processing of the unseeded digest" (R126),
with the steps of HASH64. -/

namespace Sys2Proof.Machine

/-- The post-processing of `hash64WithSeeds` (R124). -/
def withSeeds (seed0 seed1 d : U64) : U64 := hash128to64 ⟨d - seed0, seed1⟩

/-- The post-processing of `hash64WithSeed`: the first seed is K2 (R125). -/
def withSeed (p : Params) (seed d : U64) : U64 := withSeeds p.k2 seed d

/-- HASH64_SEED (R127): the seed is L(SEED0); SEED1 is not read. -/
def execHash64Seed (s : State) : Result := hash64Step (withSeed s.params s.latched.seed0) s

/-- HASH64_SEEDS (R128): the seeds are L(SEED0) and L(SEED1). -/
def execHash64Seeds (s : State) : Result := hash64Step (withSeeds s.latched.seed0 s.latched.seed1) s

end Sys2Proof.Machine
end

