-- ==== Sys2Proof/Machine/Dispatch.lean ====
section
/-! DEFINITION. One arm for each command: the meaning of the engine's next step while that command runs. -/

namespace Sys2Proof.Machine

def exec (i : Instr) (s : State) : Host.Outcome State Fault Refusal :=
  match i with
  -- digest commands
  | .hash32 => Sys2Proof.Machine.execHash32 s
  | .hash64 => Sys2Proof.Machine.execHash64 s
  | .hash64Seed => Sys2Proof.Machine.execHash64Seed s
  | .hash64Seeds => Sys2Proof.Machine.execHash64Seeds s
  -- primitive commands
  | .rotr32 => Sys2Proof.Machine.execRotr32 s
  | .rotr64 => Sys2Proof.Machine.execRotr64 s
  | .rotr64Al1 => Sys2Proof.Machine.execRotr64Al1 s
  | .fetch32 => Sys2Proof.Machine.execFetch32 s
  | .fetch64 => Sys2Proof.Machine.execFetch64 s
  | .fmix => Sys2Proof.Machine.execFmix s
  | .mur => Sys2Proof.Machine.execMur s
  | .shiftmix => Sys2Proof.Machine.execShiftmix s
  | .hash128to64 => Sys2Proof.Machine.execHash128to64 s
  | .weakhash => Sys2Proof.Machine.execWeakhash s
  | .weakhashMem => Sys2Proof.Machine.execWeakhashMem s
  | .fetch8 => Sys2Proof.Machine.execFetch8 s
  | .bswap32 => Sys2Proof.Machine.execBswap32 s

end Sys2Proof.Machine
end

