-- ==== Sys2Proof/Machine/Engine.lean ====
section
/-! DEFINITION. One step of the engine agent. -/

namespace Sys2Proof.Machine

/-- The command the engine runs: what the latched pair decodes to (30_encoding.md R61). -/
def current (s : State) : Except CmdError Instr := decodeLatched s.opcodeL s.cmdrsvL

/-- An engine step. "With PHASE = IDLE, the engine does nothing" (60_exceptions.md R148). Otherwise it decodes the
latched word, ends with ERR_RESERVED or ERR_OPCODE (R61), or takes the running command's step. -/
def engineStep (s : State) : Result :=
  match s.phase with
  | .idle => .next s
  | _ =>
    match current s with
    | .ok i => exec i s
    | .error e => .next (raiseError e s)

end Sys2Proof.Machine
end

