-- ==== Sys2Proof/Machine/HostPort.lean ====
section
/-! DEFINITION. The host port: the register window (10_state.md R18 to R27), INBUF bytes (20_memory.md R46), the form a
register access must have (R47), and the host-sequence encoding and pseudo-instructions (30_encoding.md R68, R69). -/

namespace Sys2Proof.Machine

/-- The named registers of the window (R18). -/
inductive HostReg where
  | cmd
  | status
  | irqen
  | len
  | seed0
  | seed1
  | result
  | resultHi
  | opa
  | opb
  | opc
  | opd
  | ope
  | opf
  | maxlen
  deriving DecidableEq, Repr

/-- `off(REG)`, the offset of a named register (R18). -/
def offsetOf : HostReg → Nat
  | .cmd => 0x00
  | .status => 0x08
  | .irqen => 0x10
  | .len => 0x18
  | .seed0 => 0x20
  | .seed1 => 0x28
  | .result => 0x30
  | .resultHi => 0x38
  | .opa => 0x40
  | .opb => 0x48
  | .opc => 0x50
  | .opd => 0x58
  | .ope => 0x60
  | .opf => 0x68
  | .maxlen => 0x70

/-- The register at an offset; the reserved offsets 0x78..0xF8 (R27) hold none. -/
def regAt (off : Nat) : Option HostReg :=
  match off with
  | 0x00 => some .cmd
  | 0x08 => some .status
  | 0x10 => some .irqen
  | 0x18 => some .len
  | 0x20 => some .seed0
  | 0x28 => some .seed1
  | 0x30 => some .result
  | 0x38 => some .resultHi
  | 0x40 => some .opa
  | 0x48 => some .opb
  | 0x50 => some .opc
  | 0x58 => some .opd
  | 0x60 => some .ope
  | 0x68 => some .opf
  | 0x70 => some .maxlen
  | _ => none

/-- What a host read of a register returns (R18 to R26): CMD reads 0 (R22). -/
def readReg (r : HostReg) (s : State) : U64 :=
  match r with
  | .cmd => 0
  | .status => statusWord s
  | .irqen => irqenWord s
  | .len => s.regs.len
  | .seed0 => s.regs.seed0
  | .seed1 => s.regs.seed1
  | .result => s.result
  | .resultHi => s.resultHi
  | .opa => s.regs.opa
  | .opb => s.regs.opb
  | .opc => s.regs.opc
  | .opd => s.regs.opd
  | .ope => s.regs.ope
  | .opf => s.regs.opf
  | .maxlen => s.params.maxlen

/-- A dropped write: nothing but WDROP changes (60_exceptions.md R142). -/
def dropWrite (s : State) : State := { s with status := s.status.drop }

/-- A host write of a command word: accepted when idle, dropped when BUSY (R60, 70_reset_and_hazards.md R156). -/
def writeCmd (word : U64) (s : State) : State := if s.busy then dropWrite s else accept word s

/-- What a host write of a register does (R18 to R26). A write to a read-only register is ignored. -/
def writeReg (r : HostReg) (v : U64) (s : State) : State :=
  match r with
  | .cmd => writeCmd v s
  | .status => { s with status := s.status.hostWrite v }
  | .irqen => { s with doneIe := v.getLsbD 0 }
  | .len => { s with regs := { s.regs with len := v } }
  | .seed0 => { s with regs := { s.regs with seed0 := v } }
  | .seed1 => { s with regs := { s.regs with seed1 := v } }
  | .result => s
  | .resultHi => s
  | .opa => { s with regs := { s.regs with opa := v } }
  | .opb => { s with regs := { s.regs with opb := v } }
  | .opc => { s with regs := { s.regs with opc := v } }
  | .opd => { s with regs := { s.regs with opd := v } }
  | .ope => { s with regs := { s.regs with ope := v } }
  | .opf => { s with regs := { s.regs with opf := v } }
  | .maxlen => s

/-- The one legal form of a register access: 64 bits wide, aligned, inside the window (R47). -/
def inInterface (off width : Nat) : Bool := width == 8 && off % 8 == 0 && decide (off < 256)

/-- The value a register offset reads as; a reserved offset reads 0 (R27). -/
def regReadAt (off : Nat) (s : State) : U64 :=
  match regAt off with
  | some r => readReg r s
  | none => 0

/-- A write at a register offset; at a reserved offset it is ignored and does not set WDROP (R27). -/
def regWriteAt (off : Nat) (v : U64) (s : State) : State :=
  match regAt off with
  | some r => writeReg r v s
  | none => s

/-- A host byte write to INBUF (R46): dropped while BUSY and at an address ≥ MAXLEN. -/
def bufWrite (addr : Nat) (b : U8) (s : State) : State :=
  if s.busy || decide (s.params.maxlen.toNat ≤ addr) then dropWrite s
  else { s with inbuf := s.inbuf.writeByte addr b }

/-- A host byte read of INBUF (R46): 0 at an address ≥ MAXLEN, a free byte where the written mark is clear
(DEDUCED, safe; notes/assumptions/4.md). -/
def bufRead (addr : Nat) (s : State) : State :=
  if s.params.maxlen.toNat ≤ addr then { s with hostData := 0 }
  else
    match s.inbuf.readByte addr with
    | some b => { s with hostData := b.setWidth 64 }
    | none => { s with hostData := (Config.freeByte s.draws).setWidth 64, draws := s.draws + 1 }

/-- One host access. A register access of another form is refused (60_exceptions.md R150). -/
def hostAccess (t : HostTxn) (s : State) : Result :=
  match t with
  | .regWrite off width v => if inInterface off width then .next (regWriteAt off v s) else .refused .outOfInterface
  | .regRead off width =>
    if inInterface off width then .next { s with hostData := regReadAt off s } else .refused .outOfInterface
  | .bufWrite addr b => .next (bufWrite addr b s)
  | .bufRead addr => .next (bufRead addr s)

/-! ### Host sequences -/

/-- The kind of an encoded line: RW, RR, BW, BR (R68). -/
inductive LineKind where
  | rw
  | rr
  | bw
  | br
  deriving DecidableEq, Repr

/-- "Each line's binary encoding is the triple (kind, offset or address, value)" (R68). That a read
line carries the value 0 is the model's (DESIGN CHOICE, unsafe; notes/assumptions/19.md). -/
structure Line where
  kind : LineKind
  addr : Nat
  value : U64
  deriving DecidableEq, Repr

/-- The encoding of a transaction (R68). A register access of another width than 64 bits has no line. -/
def encodeTxn : HostTxn → Option Line
  | .regWrite off width v => if width = 8 then some ⟨.rw, off, v⟩ else none
  | .regRead off width => if width = 8 then some ⟨.rr, off, 0⟩ else none
  | .bufWrite addr b => some ⟨.bw, addr, b.setWidth 64⟩
  | .bufRead addr => some ⟨.br, addr, 0⟩

/-- The transaction of a line (R68). What R68 does not say is the model's (DESIGN CHOICE, unsafe; notes/assumptions/19.md):
a BW line whose value exceeds 0xff writes the value's low 8 bits, and the value of a read line is ignored. -/
def decodeLine (l : Line) : HostTxn :=
  match l.kind with
  | .rw => .regWrite l.addr 8 l.value
  | .rr => .regRead l.addr 8
  | .bw => .bufWrite l.addr (l.value.setWidth 8)
  | .br => .bufRead l.addr

/-- A line of a host sequence: the four transactions by register name, and the pseudo-instructions (R68, R69). -/
inductive HostLine where
  | wr (r : HostReg) (imm : U64)
  | rd (r : HostReg)
  | wrb (addr : Nat) (b : U8)
  | rdb (addr : Nat)
  | cmd (i : Instr)
  | wrs (addr : Nat) (bytes : List U8)
  | wait
  | clr
  | clrw
  deriving DecidableEq, Repr

/-- `wrs`: byte writes at increasing addresses, in order (R69). A bus that moves wider words into INBUF is the same
sequence, least significant byte first (R46). -/
def expandBytes (addr : Nat) : List U8 → List Event
  | [] => []
  | b :: rest => .host (.bufWrite addr b) :: expandBytes (addr + 1) rest

/-- The low `k` bytes of a word written into INBUF, least significant byte first (R46). -/
def wideBufWrite (addr k : Nat) (v : U64) : List Event := expandBytes addr ((List.range k).map (byteOf v))

/-- The expansion of a line (R69). -/
def expandLine : HostLine → List Event
  | .wr r imm => [.host (.regWrite (offsetOf r) 8 imm)]
  | .rd r => [.host (.regRead (offsetOf r) 8)]
  | .wrb addr b => [.host (.bufWrite addr b)]
  | .rdb addr => [.host (.bufRead addr)]
  | .cmd i => [.host (.regWrite (offsetOf .cmd) 8 (encode i))]
  | .wrs addr bytes => expandBytes addr bytes
  | .wait => [.wait]
  | .clr => [.host (.regWrite (offsetOf .status) 8 0x2)]
  | .clrw => [.host (.regWrite (offsetOf .status) 8 0x8)]

/-- A host sequence as the events it issues. -/
def expandProgram (ls : List HostLine) : List Event := ls.flatMap expandLine

/-- One round of the polling loop `wait` (R69): read STATUS; with DONE = 0, let the engine take a step and poll again
(DESIGN CHOICE, safe: one legal interleaving, any other is an event list; notes/assumptions/13.md). -/
def pollDone (s : State) : State :=
  let s := { s with hostData := statusWord s }
  if s.status.done then s else { s with events := .engine :: .wait :: s.events }

end Sys2Proof.Machine
end

