-- ==== Sys2Proof/Machine/Step.lean ====
section
/-! DEFINITION. One step of the whole machine: the next event of the total order (20_memory.md R52), or an engine step
when nothing is waiting to happen (weak fairness, 60_exceptions.md R138). -/

namespace Sys2Proof.Machine

/-- The machine's step. -/
def step (s : State) : Host.Outcome State Fault Refusal :=
  match s.events with
  | [] => engineStep s
  | .engine :: rest => engineStep { s with events := rest }
  | .host t :: rest => hostAccess t { s with events := rest }
  | .reset :: rest => .next (applyReset { s with events := rest })
  | .wait :: rest => .next (pollDone { s with events := rest })

/-- The state in which a command word has just been accepted (30_encoding.md R60) and the engine moves next: the very
next step decodes and runs it (DESIGN CHOICE, safe; notes/assumptions/14.md). -/
def State.withFetchWord (s : State) (nbits w : Nat) : State :=
  { accept (BitVec.ofNat 64 (w % 2 ^ nbits)) s with events := .engine :: s.events }

end Sys2Proof.Machine
end

