-- ==== Sys2Proof/Safety.lean ====
section
/-! DEFINITION. The vocabulary of the statements: what a finished and a failed command look like, what the input of a
command is, the machine's invariant, and how many engine steps a command still needs. Nothing here is run by `step`. -/

namespace Sys2Proof.Machine

/-! ### Outcomes -/

/-- The next state, if there is one. -/
def nextOf : Result → Option State
  | .next s => some s
  | .fault _ => none
  | .refused _ => none

/-- The step ends in a fault. -/
def faults : Result → Bool
  | .next _ => false
  | .fault _ => true
  | .refused _ => false

/-- The same outcome with its next state changed by `f`. -/
def mapNext (f : State → State) : Result → Result
  | .next s => .next (f s)
  | .fault r => .fault r
  | .refused r => .refused r

/-- The state a normal completion with a single-word result leaves (60_exceptions.md R137). It keeps the working registers
and counters, which is the model's choice (notes/assumptions/18.md). -/
def finished (s : State) (result : U64) : State :=
  { s with
    result := result
    status := { done := true, err := false, wdrop := s.status.wdrop, errcode := 0 }
    phase := .idle }

/-- The state a normal completion with a 128-bit result leaves (R137). -/
def finishedPair (s : State) (lo hi : U64) : State := { finished s lo with resultHi := hi }

/-- The state an error completion leaves (60_exceptions.md R136). It keeps the working registers and counters, which is the
model's choice (notes/assumptions/18.md). -/
def failed (s : State) (code : U8) : State :=
  { s with
    status := { done := true, err := true, wdrop := s.status.wdrop, errcode := code }
    phase := .idle }

/-- `k` steps of the machine, stopping at the first fault or refusal. -/
def run : Nat → State → Result
  | 0, s => .next s
  | k + 1, s =>
    match step s with
    | .next t => run k t
    | .fault r => .fault r
    | .refused r => .refused r

/-! ### The input -/

/-- INBUF holds the bytes `rd` at the addresses 0..n−1, all marked written. -/
def holds (m : Memory) (rd : Nat → U8) (n : Nat) : Prop := ∀ a, a < n → m.readByte a = some (rd a)

/-- INBUF holds the bytes `rd` at the `k` addresses from `off` on, all marked written. -/
def holdsAt (m : Memory) (rd : Nat → U8) (off k : Nat) : Prop :=
  ∀ a, off ≤ a → a < off + k → m.readByte a = some (rd a)

/-- Every byte at 0..n−1 is marked written. -/
def written (m : Memory) (n : Nat) : Prop := ∀ a, a < n → m.readByte a ≠ none

/-- The little-endian 32-bit word at `off` (20_memory.md R41). -/
def word32 (rd : Nat → U8) (off : Nat) : U32 := rd (off + 3) ++ rd (off + 2) ++ rd (off + 1) ++ rd off

/-- The little-endian 64-bit word at `off` (R41). -/
def word64 (rd : Nat → U8) (off : Nat) : U64 := word32 rd (off + 4) ++ word32 rd off

/-- The commands that read INBUF (30_encoding.md R61). -/
def readsInbuf : Instr → Bool
  | .hash32 | .hash64 | .hash64Seed | .hash64Seeds | .fetch8 | .fetch32 | .fetch64 | .weakhashMem => true
  | .rotr32 | .rotr64 | .rotr64Al1 | .fmix | .mur | .shiftmix | .hash128to64 | .weakhash | .bswap32 => false

/-- The width in bytes that a memory primitive reads (40_primitives.md R83). -/
def readWidth : Instr → Option Nat
  | .fetch8 => some 1
  | .fetch32 => some 4
  | .fetch64 => some 8
  | .weakhashMem => some 32
  | .hash32 | .hash64 | .hash64Seed | .hash64Seeds | .rotr32 | .rotr64 | .rotr64Al1 | .fmix | .mur | .shiftmix
  | .hash128to64 | .weakhash | .bswap32 => none

/-- The three commands that compute `hash64(s, n)` (42_hash64.md R123, 43_hash64_seeded.md R126). -/
def isHash64 : Instr → Bool
  | .hash64 | .hash64Seed | .hash64Seeds => true
  | .hash32 | .rotr32 | .rotr64 | .rotr64Al1 | .fetch32 | .fetch64 | .fmix | .mur | .shiftmix | .hash128to64
  | .weakhash | .weakhashMem | .fetch8 | .bswap32 => false

/-- What a Hash64-family command makes of the digest `d` (R123, R127, R128). -/
def digestResult (i : Instr) (s : State) (d : U64) : U64 :=
  match i with
  | .hash64Seed => hash128to64 ⟨d - s.params.k2, s.latched.seed0⟩
  | .hash64Seeds => hash128to64 ⟨d - s.latched.seed0, s.latched.seed1⟩
  | .hash32 | .hash64 | .rotr32 | .rotr64 | .rotr64Al1 | .fetch32 | .fetch64 | .fmix | .mur | .shiftmix
  | .hash128to64 | .weakhash | .weakhashMem | .fetch8 | .bswap32 => d

/-- The registers a host write sets whole: LEN, SEED0, SEED1, OPA..OPF (10_state.md R19 to R21). -/
def operandReg : HostReg → Bool
  | .len | .seed0 | .seed1 | .opa | .opb | .opc | .opd | .ope | .opf => true
  | .cmd | .status | .irqen | .result | .resultHi | .maxlen => false

/-! ### The length of a command -/

/-- The chunk size of a command whose input is long: 20 for HASH32 from n = 25 on (41_hash32.md R97), 64 for the Hash64
family from n = 65 on (42_hash64.md R108); none for every other command and length. -/
def longChunk (i : Instr) (n : Nat) : Option Nat :=
  match i with
  | .hash32 => if 25 ≤ n then some 20 else none
  | .hash64 | .hash64Seed | .hash64Seeds => if 65 ≤ n then some 64 else none
  | .rotr32 | .rotr64 | .rotr64Al1 | .fetch32 | .fetch64 | .fmix | .mur | .shiftmix | .hash128to64 | .weakhash
  | .weakhashMem | .fetch8 | .bswap32 => none

/-- The chunk size of the running command, if it is a long digest whose length is legal. -/
def runningChunk (s : State) : Option Nat :=
  match current s with
  | .ok i => if s.latched.len.toNat ≤ s.params.maxlen.toNat then longChunk i s.latched.len.toNat else none
  | .error _ => none

/-- The engine steps the running command still needs (60_exceptions.md R138): 1 + ⌊(n−1)/chunk⌋ + 1 for a long digest,
1 for everything else. -/
def stepsLeft (s : State) : Nat :=
  match s.phase with
  | .idle => 0
  | .setup =>
    match runningChunk s with
    | some c => 1 + (s.latched.len.toNat - 1) / c + 1
    | none => 1
  | .loop => s.iters.toNat + 1
  | .final => 1

/-! ### The invariant -/

/-- What is true of every state the engine can be in. -/
structure State.Inv (s : State) : Prop where
  /-- Each mixing constant is odd (00_scope.md R11). -/
  constantsOdd : s.params.wf
  /-- INBUF is in canonical form. -/
  memoryCanonical : s.inbuf.wf
  /-- INBUF has no byte at or above MAXLEN (20_memory.md R39). -/
  memoryBounded : ∀ a ∈ s.inbuf.cells.map Prod.fst, a < s.params.maxlen.toNat
  /-- BUSY = 1 implies DONE = 0, ERR = 0 and ERRCODE = 0 (10_state.md R23). -/
  busyStatus : s.busy = true → s.status.done = false ∧ s.status.err = false ∧ s.status.errcode = 0
  /-- ERRCODE is one of the five codes (60_exceptions.md R130), and 0 exactly when ERR = 0 (10_state.md R23). -/
  errcodeLegal : s.status.errcode.toNat ≤ 4 ∧ (s.status.err = false ↔ s.status.errcode = 0)
  /-- LOOP runs a long digest, with at least one chunk left, at the chunk OFF names. -/
  loopRunsLongDigest : s.phase = .loop →
    ∃ c, runningChunk s = some c ∧ 1 ≤ s.iters.toNat ∧
      s.off.toNat + c * s.iters.toNat = c * ((s.latched.len.toNat - 1) / c)
  /-- FINAL runs a long digest whose chunks are all processed. -/
  finalRunsLongDigest : s.phase = .final →
    ∃ c, runningChunk s = some c ∧ s.iters = 0 ∧ s.off.toNat = c * ((s.latched.len.toNat - 1) / c)

end Sys2Proof.Machine
end

