-- ==== Sys2Proof/Certificates/Slice0/Obligations.lean ====
section
/-! DEFINITION. The statements for the provers. Each docstring names the rule of spec/ it formalises. A statement quantifies
over every state unless it says otherwise, so over every binding of the parameters MAXLEN, K0..K3, C1, C2. The functions
of 40_primitives.md that a digest formula uses (`fmix`, `mur`, `shiftMix`, `hash128to64`, `weakHash`) are the model's own;
the statements about FMIX, MUR, SHIFTMIX, HASH128TO64 and WEAKHASH say what each of them computes. The working
registers H, G, F, X, Y, Z, V, W and the counters OFF, ITERS are left open by 10_state.md R31 to R33 outside a long digest
command. A statement about a command's step that says they keep their values names that as the model's choice
(notes/assumptions/18.md) and has basis 'derived'. That a host access and an idle engine change none of them is the spec's
(20_memory.md R48, 60_exceptions.md R148). -/

open Sys2Proof Sys2Proof.Machine

/-! ### Reset -/

/-- R151, R153: the reset input, in one step and from any state, gives every register its reset value, idles the engine,
lowers `irq`, keeps INBUF's contents, clears every written mark, and the engine accepts the next CMD write. -/
def Obligations.ResetEventRestoresEveryRegister : Prop :=
  ∀ (s : State) (rest : List Event), s.events = .reset :: rest →
    ∃ t, step s = .next t ∧
      (∀ r, r ≠ HostReg.maxlen → readReg r t = 0) ∧ readReg .maxlen t = readReg .maxlen s ∧
      t.phase = .idle ∧ irq t = false ∧
      (∀ a, t.inbuf.readByte a = none) ∧ (∀ a, t.inbuf.contents a = s.inbuf.contents a) ∧
      (∀ word, (writeReg .cmd word t).phase = .setup) ∧ t.events = rest

/-- R36: what every piece of state with a specified reset value holds in `State.reset`. -/
def Obligations.StateAfterReset : Prop :=
  (∀ r, r ≠ HostReg.maxlen → readReg r State.reset = 0) ∧
    readReg .maxlen State.reset = State.reset.params.maxlen ∧
    State.reset.phase = .idle ∧ irq State.reset = false ∧ ∀ a, State.reset.inbuf.readByte a = none

/-! ### The register window -/

/-- R158: a host write of LEN, SEED0, SEED1 or OPA..OPF, in any phase, takes effect and is read back, changes no other
register, does not affect the running command (its next step is the same but for that register), and affects the next
command, whose acceptance latches the registers. -/
def Obligations.OperandRegisterWriteSparesRunningCommand : Prop :=
  ∀ (r : HostReg) (v : U64) (s : State), operandReg r = true →
    (∀ rest, s.events = .host (.regWrite (offsetOf r) 8 v) :: rest →
      step s = .next (writeReg r v { s with events := rest })) ∧
    readReg r (writeReg r v s) = v ∧
    (∀ r', r' ≠ r → readReg r' (writeReg r v s) = readReg r' s) ∧
    (∀ i, exec i (writeReg r v s) = mapNext (writeReg r v) (exec i s)) ∧
    (∀ word, (accept word (writeReg r v s)).latched = (writeReg r v s).regs)

/-- R27: reserved offsets 0x78 to 0xF8 read 0; host writes to them are ignored and do not set WDROP. -/
def Obligations.ReservedOffsetsReadZeroIgnoreWrites : Prop :=
  ∀ (s : State) (rest : List Event) (off : Nat), off % 8 = 0 → 0x78 ≤ off → off ≤ 0xF8 →
    (∀ v, s.events = .host (.regWrite off 8 v) :: rest → step s = .next { s with events := rest }) ∧
    (s.events = .host (.regRead off 8) :: rest → step s = .next { s with events := rest, hostData := 0 })

/-- R26: MAXLEN reads as the instance's parameter, a host write of it is ignored, and no step changes the
parameters. That the ignored write does not set WDROP is the model's inference (notes/assumptions/17.md). -/
def Obligations.MaxlenIsAConstant : Prop :=
  (∀ (s : State) (v : U64), readReg .maxlen s = s.params.maxlen ∧ writeReg .maxlen v s = s) ∧
    ∀ s t, step s = .next t → t.params = s.params

/-- The window of R18: each named register stands at its offset; CMD reads 0 (R22); LEN, SEED0, SEED1 and OPA..OPF read and
write that very register and no other (R19, R20, R21); RESULT and RESULT_HI read the results and ignore host writes
(R25). That what is read is kept in `hostData` (notes/assumptions/9.md) and that an ignored write does not set WDROP (17.md)
are the model's. -/
def Obligations.RegisterWindowMap : Prop :=
  (∀ (s : State) (rest : List Event) (r : HostReg), s.events = .host (.regRead (offsetOf r) 8) :: rest →
    step s = .next { s with events := rest, hostData := readReg r s }) ∧
  (∀ (s : State) (rest : List Event) (r : HostReg) (v : U64), s.events = .host (.regWrite (offsetOf r) 8 v) :: rest →
    step s = .next (writeReg r v { s with events := rest })) ∧
  [offsetOf .cmd, offsetOf .status, offsetOf .irqen, offsetOf .len, offsetOf .seed0, offsetOf .seed1,
    offsetOf .result, offsetOf .resultHi, offsetOf .opa, offsetOf .opb, offsetOf .opc, offsetOf .opd,
    offsetOf .ope, offsetOf .opf, offsetOf .maxlen] =
    [0x00, 0x08, 0x10, 0x18, 0x20, 0x28, 0x30, 0x38, 0x40, 0x48, 0x50, 0x58, 0x60, 0x68, 0x70] ∧
  (∀ (s : State) (v : U64), readReg .cmd s = 0 ∧ writeReg .result v s = s ∧ writeReg .resultHi v s = s) ∧
  (∀ s : State, readReg .result s = s.result ∧ readReg .resultHi s = s.resultHi ∧ readReg .len s = s.regs.len ∧
    readReg .seed0 s = s.regs.seed0 ∧ readReg .seed1 s = s.regs.seed1 ∧ readReg .opa s = s.regs.opa ∧
    readReg .opb s = s.regs.opb ∧ readReg .opc s = s.regs.opc ∧ readReg .opd s = s.regs.opd ∧
    readReg .ope s = s.regs.ope ∧ readReg .opf s = s.regs.opf) ∧
  ∀ (s : State) (v : U64),
    writeReg .len v s = { s with regs := { s.regs with len := v } } ∧
    writeReg .seed0 v s = { s with regs := { s.regs with seed0 := v } } ∧
    writeReg .seed1 v s = { s with regs := { s.regs with seed1 := v } } ∧
    writeReg .opa v s = { s with regs := { s.regs with opa := v } } ∧
    writeReg .opb v s = { s with regs := { s.regs with opb := v } } ∧
    writeReg .opc v s = { s with regs := { s.regs with opc := v } } ∧
    writeReg .opd v s = { s with regs := { s.regs with opd := v } } ∧
    writeReg .ope v s = { s with regs := { s.regs with ope := v } } ∧
    writeReg .opf v s = { s with regs := { s.regs with opf := v } }

/-- The layout of STATUS (R23), its W1C bits, and its legal states in every state of the invariant. -/
def Obligations.StatusLayoutAndWriteOneToClear : Prop :=
  ∀ s : State,
    (readReg .status s).getLsbD 0 = decide (s.phase ≠ .idle) ∧
    (readReg .status s).getLsbD 1 = s.status.done ∧
    (readReg .status s).getLsbD 2 = s.status.err ∧
    (readReg .status s).getLsbD 3 = s.status.wdrop ∧
    (readReg .status s).extractLsb' 8 8 = s.status.errcode ∧
    (∀ k, (4 ≤ k ∧ k ≤ 7) ∨ 16 ≤ k → (readReg .status s).getLsbD k = false) ∧
    (∀ v : U64, writeReg .status v s =
      { s with
        status :=
          { done := s.status.done && !v.getLsbD 1
            err := s.status.err
            wdrop := s.status.wdrop && !v.getLsbD 3
            errcode := s.status.errcode } }) ∧
    (s.Inv → (s.status.err = false → s.status.errcode = 0) ∧
      ((readReg .status s).getLsbD 0 = true →
        s.status.done = false ∧ s.status.err = false ∧ s.status.errcode = 0))

/-- R24, R139: IRQEN holds DONE_IE in bit 0 and reads 0 elsewhere; `irq` is DONE and DONE_IE, in every state. -/
def Obligations.InterruptEnableAndLine : Prop :=
  ∀ (s : State) (v : U64),
    (readReg .irqen s).getLsbD 0 = s.doneIe ∧
    (∀ k, 1 ≤ k → (readReg .irqen s).getLsbD k = false) ∧
    writeReg .irqen v s = { s with doneIe := v.getLsbD 0 } ∧
    irq s = ((readReg .status s).getLsbD 1 && (readReg .irqen s).getLsbD 0)

/-- R150: a register access is refused exactly when it is not an aligned 64-bit access inside the window. -/
def Obligations.OutOfInterfaceAccessRefused : Prop :=
  ∀ (s : State) (rest : List Event) (t : HostTxn) (off width : Nat) (v : U64),
    t = .regWrite off width v ∨ t = .regRead off width → s.events = .host t :: rest →
      (¬(width = 8 ∧ off % 8 = 0 ∧ off < 256) → step s = .refused .outOfInterface) ∧
      ((width = 8 ∧ off % 8 = 0 ∧ off < 256) → ∃ u, step s = .next u)

/-- R48: a host read changes nothing in the engine. (`hostData`, `draws` and `events` are the model's own fields: what
the port returned, the free values drawn, and what is still to come.) -/
def Obligations.HostReadsHaveNoSideEffect : Prop :=
  ∀ (s u : State) (rest : List Event) (off width a : Nat),
    s.events = .host (.regRead off width) :: rest ∨ s.events = .host (.bufRead a) :: rest →
      step s = .next u → u = { s with events := rest, hostData := u.hostData, draws := u.draws }

/-- R46, R157: the host's INBUF byte accesses. A write lands, and alone, when the engine is idle and the address is
below MAXLEN, and is otherwise dropped with WDROP set; a read returns the byte, 0 at or above MAXLEN, and some byte where
the written mark is clear. That this byte is free after a reset too (notes/assumptions/4.md), numbered by `draws` (7.md), and
that what is read is kept in `hostData` (9.md) are the model's. -/
def Obligations.InbufHostAccess : Prop :=
  ∀ (s : State) (rest : List Event) (a : Nat),
    (∀ b, s.events = .host (.bufWrite a b) :: rest → ∃ t, step s = .next t ∧
      (a < s.params.maxlen.toNat → s.busy = false →
        t.inbuf.readByte a = some b ∧ (∀ a', a' ≠ a → t.inbuf.readByte a' = s.inbuf.readByte a') ∧
          t = { s with events := rest, inbuf := t.inbuf }) ∧
      (s.params.maxlen.toNat ≤ a ∨ s.busy = true →
        t = { s with events := rest, status := { s.status with wdrop := true } })) ∧
    (s.events = .host (.bufRead a) :: rest → ∃ t, step s = .next t ∧
      (s.params.maxlen.toNat ≤ a → t = { s with events := rest, hostData := 0 }) ∧
      (∀ b, a < s.params.maxlen.toNat → s.inbuf.readByte a = some b →
        t = { s with events := rest, hostData := b.setWidth 64 }) ∧
      (a < s.params.maxlen.toNat → s.inbuf.readByte a = none →
        ∃ (b : U8) (k : Nat), t = { s with events := rest, hostData := b.setWidth 64, draws := k }))

/-! ### A command's acceptance and its decoding -/

/-- R60: a host write of a word to CMD is dropped with WDROP set while BUSY, and is otherwise accepted whatever the word:
the word and the operand registers are latched, DONE, ERR and ERRCODE cleared, BUSY set. -/
def Obligations.CommandAcceptance : Prop :=
  ∀ (s : State) (rest : List Event) (word : U64), s.events = .host (.regWrite 0x00 8 word) :: rest →
    (s.busy = true → step s = .next { s with events := rest, status := { s.status with wdrop := true } }) ∧
    (s.busy = false → step s =
      .next { s with
        events := rest
        opcodeL := word.setWidth 8
        cmdrsvL := decide (word.toNat / 256 ≠ 0)
        latched := s.regs
        phase := .setup
        status := { done := false, err := false, wdrop := s.status.wdrop, errcode := 0 } })

/-- R61: while BUSY, an engine step is the meaning of the command the latched word decodes to. It is taken at an
`engine` event, and when nothing is waiting to happen. -/
def Obligations.EngineStepRunsDecodedCommand : Prop :=
  ∀ (s : State) (i : Instr), s.busy = true → decodeLatched s.opcodeL s.cmdrsvL = .ok i →
    (s.events = [] → step s = exec i s) ∧
    ∀ rest, s.events = .engine :: rest → step s = exec i { s with events := rest }

/-- The word that `withFetchWord` places is the command the very next step runs, after its acceptance (R60, R61). -/
def Obligations.PlacedWordIsRunNext : Prop :=
  ∀ (s : State) (i : Instr), step (s.withFetchWord 64 (encode i).toNat) = exec i (accept (encode i) s)

/-- R148: with PHASE = IDLE the engine does nothing and all state is kept. -/
def Obligations.IdleEngineDoesNothing : Prop :=
  ∀ s : State, s.phase = .idle →
    (s.events = [] → step s = .next s) ∧
    ∀ rest, s.events = .engine :: rest → step s = .next { s with events := rest }

/-- R65, R131: an accepted word with any of bits 63:8 set completes with ERR_RESERVED, whatever its opcode. That the
working registers and counters keep their values is the model's choice (notes/assumptions/18.md). -/
def Obligations.ReservedBitsEndWithErrReserved : Prop :=
  ∀ (s : State) (word : U64), s.busy = false → word.toNat / 256 ≠ 0 →
    s.events = [.host (.regWrite 0x00 8 word)] →
      run 2 s = .next (failed (accept word { s with events := [] }) 0x01)

/-- R64, R132: an accepted word with an illegal opcode and RSV = 0 completes with ERR_OPCODE. That the working registers
and counters keep their values is the model's choice (notes/assumptions/18.md). -/
def Obligations.IllegalOpcodeEndsWithErrOpcode : Prop :=
  ∀ (s : State) (word : U64), s.busy = false → word.toNat < 256 →
    (word.toNat = 0x00 ∨ (0x05 ≤ word.toNat ∧ word.toNat ≤ 0x0F) ∨ 0x1D ≤ word.toNat) →
    s.events = [.host (.regWrite 0x00 8 word)] →
      run 2 s = .next (failed (accept word { s with events := [] }) 0x02)

/-- R63: words of the opcode map, one of each group and its edges. -/
def Obligations.OpcodeMapWords : Prop :=
  decodeWord 0x0000000000000001 = .ok .hash32 ∧ decodeWord 0x0000000000000004 = .ok .hash64Seeds ∧
    decodeWord 0x0000000000000010 = .ok .rotr32 ∧ decodeWord 0x0000000000000017 = .ok .shiftmix ∧
    decodeWord 0x000000000000001A = .ok .weakhashMem ∧ decodeWord 0x000000000000001C = .ok .bswap32

/-- R63, the opcode map, "the full match is `word[63:0]` with RSV = 0": a word decodes to a command exactly when it is that
command's encoding, and the encodings are those of the map. So decoding inverts encoding, no two commands share a word and
no bit of the word is dropped. -/
def Obligations.EveryCommandHasExactlyOneWord : Prop :=
  (∀ (w : U64) (i : Instr), decodeWord w = .ok i ↔ w = encode i) ∧
  encode .hash32 = 0x01 ∧ encode .hash64 = 0x02 ∧ encode .hash64Seed = 0x03 ∧ encode .hash64Seeds = 0x04 ∧
  encode .rotr32 = 0x10 ∧ encode .rotr64 = 0x11 ∧ encode .rotr64Al1 = 0x12 ∧ encode .fetch32 = 0x13 ∧
  encode .fetch64 = 0x14 ∧ encode .fmix = 0x15 ∧ encode .mur = 0x16 ∧ encode .shiftmix = 0x17 ∧
  encode .hash128to64 = 0x18 ∧ encode .weakhash = 0x19 ∧ encode .weakhashMem = 0x1A ∧ encode .fetch8 = 0x1B ∧
  encode .bswap32 = 0x1C

/-- R64, R65: a word decodes to a command exactly when its reserved bits are clear and its opcode is legal. -/
def Obligations.WellFormedWordsDecode : Prop :=
  ∀ w : U64, wordWellFormed w = true ↔ ∃ i, decodeWord w = .ok i

/-! ### The primitive commands -/

/-- R84: ROTR32. That a primitive takes this step in every PHASE, and that the working registers and counters keep their
values are the model's choices (notes/assumptions/12.md, 18.md). -/
def Obligations.Rotr32Command : Prop :=
  decodeWord 0x10 = .ok .rotr32 ∧ ∀ s : State,
    (s.latched.opb.toNat ≤ 31 → exec .rotr32 s =
      .next (finished s (((s.latched.opa.setWidth 32).rotateRight s.latched.opb.toNat).setWidth 64))) ∧
    (31 < s.latched.opb.toNat → exec .rotr32 s = .next (failed s 0x04))

/-- R85: ROTR64. That a primitive takes this step in every PHASE, and that the working registers and counters keep their
values are the model's choices (notes/assumptions/12.md, 18.md). -/
def Obligations.Rotr64Command : Prop :=
  decodeWord 0x11 = .ok .rotr64 ∧ ∀ s : State,
    (s.latched.opb.toNat ≤ 63 →
      exec .rotr64 s = .next (finished s (s.latched.opa.rotateRight s.latched.opb.toNat))) ∧
    (63 < s.latched.opb.toNat → exec .rotr64 s = .next (failed s 0x04))

/-- R86: ROTR64_AL1. On 1..63 its result equals ROTR64's. That a primitive takes this step in every PHASE, and that the
working registers and counters keep their values are the model's choices (notes/assumptions/12.md, 18.md). -/
def Obligations.Rotr64AtLeast1Command : Prop :=
  decodeWord 0x12 = .ok .rotr64Al1 ∧ ∀ s : State,
    (1 ≤ s.latched.opb.toNat → s.latched.opb.toNat ≤ 63 →
      exec .rotr64Al1 s = .next (finished s (s.latched.opa.rotateRight s.latched.opb.toNat)) ∧
      exec .rotr64Al1 s = exec .rotr64 s) ∧
    (s.latched.opb.toNat = 0 ∨ 63 < s.latched.opb.toNat → exec .rotr64Al1 s = .next (failed s 0x04))

/-- R87, R88, R95: FETCH32, FETCH64, FETCH8. ERR_LEN, then ERR_OPERAND, then the little-endian load at any alignment of
the bytes at `off`, which alone need be written. That a primitive takes this step in every PHASE, and that the working
registers and counters keep their values are the model's choices (notes/assumptions/12.md, 18.md). -/
def Obligations.FetchCommands : Prop :=
  decodeWord 0x13 = .ok .fetch32 ∧ decodeWord 0x14 = .ok .fetch64 ∧ decodeWord 0x1B = .ok .fetch8 ∧
  ∀ (s : State) (rd : Nat → U8),
    (s.params.maxlen.toNat < s.latched.len.toNat →
      exec .fetch8 s = .next (failed s 0x03) ∧ exec .fetch32 s = .next (failed s 0x03) ∧
        exec .fetch64 s = .next (failed s 0x03)) ∧
    (s.latched.len.toNat ≤ s.params.maxlen.toNat →
      (s.latched.len.toNat < s.latched.opa.toNat + 1 → exec .fetch8 s = .next (failed s 0x04)) ∧
      (s.latched.len.toNat < s.latched.opa.toNat + 4 → exec .fetch32 s = .next (failed s 0x04)) ∧
      (s.latched.len.toNat < s.latched.opa.toNat + 8 → exec .fetch64 s = .next (failed s 0x04)) ∧
      (s.latched.opa.toNat + 1 ≤ s.latched.len.toNat → holdsAt s.inbuf rd s.latched.opa.toNat 1 →
        exec .fetch8 s = .next (finished s ((rd s.latched.opa.toNat).setWidth 64))) ∧
      (s.latched.opa.toNat + 4 ≤ s.latched.len.toNat → holdsAt s.inbuf rd s.latched.opa.toNat 4 →
        exec .fetch32 s = .next (finished s ((word32 rd s.latched.opa.toNat).setWidth 64))) ∧
      (s.latched.opa.toNat + 8 ≤ s.latched.len.toNat → holdsAt s.inbuf rd s.latched.opa.toNat 8 →
        exec .fetch64 s = .next (finished s (word64 rd s.latched.opa.toNat))))

/-- R89: FMIX, with the function of R76 written out; fmix(0) = 0. That a primitive takes this step in every PHASE, and
that the working registers and counters keep their values are the model's choices (notes/assumptions/12.md, 18.md). -/
def Obligations.FmixCommand : Prop :=
  decodeWord 0x15 = .ok .fmix ∧ fmix 0 = 0 ∧ ∀ s : State,
    let h0 : U32 := s.latched.opa.setWidth 32
    let h1 := h0 ^^^ (h0 >>> 16)
    let h2 := h1 * 0x85ebca6b
    let h3 := h2 ^^^ (h2 >>> 13)
    let h4 := h3 * 0xc2b2ae35
    let h5 := h4 ^^^ (h4 >>> 16)
    fmix h0 = h5 ∧ exec .fmix s = .next (finished s (h5.setWidth 64))

/-- R90: MUR, with the function of R77 written out; mur(0, 0) = 0xe6546b64. That a primitive takes this step in every
PHASE, and that the working registers and counters keep their values are the model's choices (notes/assumptions/12.md,
18.md). -/
def Obligations.MurCommand : Prop :=
  decodeWord 0x16 = .ok .mur ∧ (∀ p, mur p 0 0 = 0xe6546b64) ∧ ∀ s : State,
    let a : U32 := s.latched.opa.setWidth 32
    let h : U32 := s.latched.opb.setWidth 32
    let m := (a * s.params.c1).rotateRight 17 * s.params.c2
    let r := (h ^^^ m).rotateRight 19 * 5 + 0xe6546b64
    mur s.params a h = r ∧ exec .mur s = .next (finished s (r.setWidth 64))

/-- R91: SHIFTMIX; values below 2^47 are returned unchanged. That a primitive takes this step in every PHASE, and that
the working registers and counters keep their values are the model's choices (notes/assumptions/12.md, 18.md). -/
def Obligations.ShiftmixCommand : Prop :=
  decodeWord 0x17 = .ok .shiftmix ∧ ∀ s : State,
    exec .shiftmix s = .next (finished s (s.latched.opa ^^^ (s.latched.opa >>> 47))) ∧
    (s.latched.opa.toNat < 2 ^ 47 → exec .shiftmix s = .next (finished s s.latched.opa))

/-- R92: HASH128TO64, with the function of R79 written out; (0, 0) gives 0, and the lanes are not symmetric. That a
primitive takes this step in every PHASE, and that the working registers and counters keep their values are the model's
choices (notes/assumptions/12.md, 18.md). -/
def Obligations.Hash128to64Command : Prop :=
  decodeWord 0x18 = .ok .hash128to64 ∧ hash128to64 ⟨0, 0⟩ = 0 ∧ hash128to64 ⟨1, 0⟩ ≠ hash128to64 ⟨0, 1⟩ ∧
  ∀ s : State,
    let a0 : U64 := (s.latched.opa ^^^ s.latched.opb) * 0x9ddfea08eb382d69
    let a1 := a0 ^^^ (a0 >>> 47)
    let b0 := (s.latched.opb ^^^ a1) * 0x9ddfea08eb382d69
    let b1 := b0 ^^^ (b0 >>> 47)
    let r := b1 * 0x9ddfea08eb382d69
    hash128to64 ⟨s.latched.opa, s.latched.opb⟩ = r ∧ exec .hash128to64 s = .next (finished s r)

/-- R93: WEAKHASH, with the function of R80 written out; all zero operands give (0, 0). That a primitive takes this step
in every PHASE, and that the working registers and counters keep their values are the model's choices
(notes/assumptions/12.md, 18.md). -/
def Obligations.WeakhashCommand : Prop :=
  decodeWord 0x19 = .ok .weakhash ∧ weakHash 0 0 0 0 0 0 = ⟨0, 0⟩ ∧ ∀ s : State,
    let w := s.latched.opa
    let x := s.latched.opb
    let y := s.latched.opc
    let z := s.latched.opd
    let a := s.latched.ope
    let b := s.latched.opf
    let a1 := a + w
    let b1 := (b + a1 + z).rotateRight 21
    let a2 := a1 + x + y
    let b2 := b1 + a2.rotateRight 44
    weakHash w x y z a b = ⟨a2 + z, b2 + a1⟩ ∧ exec .weakhash s = .next (finishedPair s (a2 + z) (b2 + a1))

/-- R94: WEAKHASH_MEM. ERR_LEN, then ERR_OPERAND, then the weak hash of the four words at `off`. That a primitive takes
this step in every PHASE, and that the working registers and counters keep their values are the model's choices
(notes/assumptions/12.md, 18.md). -/
def Obligations.WeakhashMemCommand : Prop :=
  decodeWord 0x1A = .ok .weakhashMem ∧ ∀ (s : State) (rd : Nat → U8),
    (s.params.maxlen.toNat < s.latched.len.toNat → exec .weakhashMem s = .next (failed s 0x03)) ∧
    (s.latched.len.toNat ≤ s.params.maxlen.toNat →
      (s.latched.len.toNat < s.latched.opa.toNat + 32 → exec .weakhashMem s = .next (failed s 0x04)) ∧
      (s.latched.opa.toNat + 32 ≤ s.latched.len.toNat → holdsAt s.inbuf rd s.latched.opa.toNat 32 →
        let off := s.latched.opa.toNat
        let r := weakHash (word64 rd off) (word64 rd (off + 8)) (word64 rd (off + 16)) (word64 rd (off + 24))
          s.latched.opb s.latched.opc
        exec .weakhashMem s = .next (finishedPair s r.lo r.hi)))

/-- R96: BSWAP32; bswap32 is its own inverse. That a primitive takes this step in every PHASE, and that the working
registers and counters keep their values are the model's choices (notes/assumptions/12.md, 18.md). -/
def Obligations.Bswap32Command : Prop :=
  decodeWord 0x1C = .ok .bswap32 ∧ (∀ v : U32, bswap32 (bswap32 v) = v) ∧ ∀ s : State,
    let v := s.latched.opa
    let r : U32 := v.extractLsb' 0 8 ++ v.extractLsb' 8 8 ++ v.extractLsb' 16 8 ++ v.extractLsb' 24 8
    bswap32 (v.setWidth 32) = r ∧ exec .bswap32 s = .next (finished s (r.setWidth 64))

/-- R133: at SETUP, a command that reads INBUF ends with ERR_LEN when L(LEN) > MAXLEN, whatever its other operands; an
engine with MAXLEN = 2^64 − 1 never raises it. That the working registers and counters keep their values is the model's
choice (notes/assumptions/18.md). -/
def Obligations.LengthAboveBufferEndsWithErrLen : Prop :=
  (∀ (i : Instr) (s : State), readsInbuf i = true → s.phase = .setup →
    s.params.maxlen.toNat < s.latched.len.toNat → exec i s = .next (failed s 0x03)) ∧
  ∀ (i : Instr) (s t : State), s.params.maxlen.toNat = 2 ^ 64 - 1 → s.status.errcode ≠ 0x03 →
    exec i s = .next t → t.status.errcode ≠ 0x03

/-! ### Hash32 -/

/-- R98: HASH32 on 0 ≤ n ≤ 4 folds each SIGN-extended byte. That the working registers and counters keep their values is
the model's choice (notes/assumptions/18.md). -/
def Obligations.Hash32UpTo4Bytes : Prop :=
  ∀ (s : State) (rd : Nat → U8), s.phase = .setup → s.latched.len.toNat ≤ 4 →
    s.latched.len.toNat ≤ s.params.maxlen.toNat → holds s.inbuf rd s.latched.len.toNat →
      let p := s.params
      let bc := (List.range s.latched.len.toNat).foldl
        (fun (x : U32 × U32) i => (x.1 * p.c1 + (rd i).signExtend 32, x.2 ^^^ (x.1 * p.c1 + (rd i).signExtend 32)))
        ((0, 9) : U32 × U32)
      exec .hash32 s =
        .next (finished s ((fmix (mur p bc.1 (mur p (s.latched.len.setWidth 32) bc.2))).setWidth 64))

/-- R99: HASH32 on 5 ≤ n ≤ 12. That the working registers and counters keep their values is the model's choice
(notes/assumptions/18.md). -/
def Obligations.Hash32From5To12Bytes : Prop :=
  ∀ (s : State) (rd : Nat → U8), s.phase = .setup → 5 ≤ s.latched.len.toNat → s.latched.len.toNat ≤ 12 →
    s.latched.len.toNat ≤ s.params.maxlen.toNat → holds s.inbuf rd s.latched.len.toNat →
      let p := s.params
      let n := s.latched.len.toNat
      let n32 : U32 := s.latched.len.setWidth 32
      let a := n32 + word32 rd 0
      let b := n32 * 5 + word32 rd (n - 4)
      let c := 9 + word32 rd (if n < 8 then 0 else 4)
      exec .hash32 s = .next (finished s ((fmix (mur p c (mur p b (mur p a (n32 * 5))))).setWidth 64))

/-- R100: HASH32 on 13 ≤ n ≤ 24. That the working registers and counters keep their values is the model's choice
(notes/assumptions/18.md). -/
def Obligations.Hash32From13To24Bytes : Prop :=
  ∀ (s : State) (rd : Nat → U8), s.phase = .setup → 13 ≤ s.latched.len.toNat → s.latched.len.toNat ≤ 24 →
    s.latched.len.toNat ≤ s.params.maxlen.toNat → holds s.inbuf rd s.latched.len.toNat →
      let p := s.params
      let n := s.latched.len.toNat
      exec .hash32 s = .next (finished s
        ((fmix (mur p (word32 rd (n - 4)) (mur p (word32 rd 0) (mur p (word32 rd (n / 2))
          (mur p (word32 rd (n - 8)) (mur p (word32 rd 4)
            (mur p (word32 rd (n / 2 - 4)) (s.latched.len.setWidth 32)))))))).setWidth 64))

/-- R102: the SETUP step of HASH32 for n ≥ 25, reading the five tail words only. That X, Y, Z, V and W keep their values
is the model's choice (notes/assumptions/18.md). -/
def Obligations.Hash32LongSetup : Prop :=
  ∀ (s : State) (rd : Nat → U8), s.phase = .setup → 25 ≤ s.latched.len.toNat →
    s.latched.len.toNat ≤ s.params.maxlen.toNat →
    holdsAt s.inbuf rd (s.latched.len.toNat - 20) 20 →
      let c1 := s.params.c1
      let n := s.latched.len.toNat
      let n32 : U32 := s.latched.len.setWidth 32
      let premix : U32 → U32 := fun x => (x * c1).rotateRight 17 * s.params.c2
      let round : U32 → U32 := fun x => x.rotateRight 19 * 5 + 0xe6546b64
      exec .hash32 s = .next { s with
        work32 :=
          { h := round (round (n32 ^^^ premix (word32 rd (n - 4))) ^^^ premix (word32 rd (n - 16)))
            g := round (round (n32 * c1 ^^^ premix (word32 rd (n - 8))) ^^^ premix (word32 rd (n - 12)))
            f := round (n32 * c1 + premix (word32 rd (n - 20))) }
        iters := BitVec.ofNat 64 ((n - 1) / 20)
        off := 0
        phase := .loop }

/-- R103: the LOOP step of HASH32 on the 20-byte chunk at OFF, which alone need be written. That X, Y, Z, V and W keep
their values is the model's choice (notes/assumptions/18.md). -/
def Obligations.Hash32LoopStep : Prop :=
  ∀ (s : State) (rd : Nat → U8), s.phase = .loop → holdsAt s.inbuf rd s.off.toNat 20 →
    let c1 := s.params.c1
    let off := s.off.toNat
    let premix : U32 → U32 := fun x => (x * c1).rotateRight 17 * s.params.c2
    let mix5 : U32 → U32 := fun x => x * 5 + 0xe6546b64
    let a0 := premix (word32 rd off)
    let a1 := word32 rd (off + 4)
    let a2 := premix (word32 rd (off + 8))
    let a3 := premix (word32 rd (off + 12))
    let a4 := word32 rd (off + 16)
    let h1 := mix5 ((s.work32.h ^^^ a0).rotateRight 18)
    let f1 := (s.work32.f + a1).rotateRight 19 * c1
    let g1 := mix5 ((s.work32.g + a2).rotateRight 18)
    let h2 := mix5 ((h1 ^^^ (a3 + a1)).rotateRight 19)
    let g2 := bswap32 (g1 ^^^ a4) * 5
    let h3 := bswap32 (h2 + a4 * 5)
    let f2 := f1 + a0
    exec .hash32 s = .next { s with
      work32 := { f := g2, h := f2, g := h3 }
      off := s.off + 20
      iters := s.iters - 1
      phase := if s.iters = 1 then .final else .loop }

/-- R104: the FINAL step of HASH32. What H, G, F hold afterwards is open (R31). What OFF and ITERS hold afterwards
(notes/assumptions/7.md) and that X, Y, Z, V and W keep their values (18.md) are the model's choices. -/
def Obligations.Hash32FinalStep : Prop :=
  ∀ s : State, s.phase = .final →
    let c1 := s.params.c1
    let mix5 : U32 → U32 := fun x => x * 5 + 0xe6546b64
    let g := (s.work32.g.rotateRight 11 * c1).rotateRight 17 * c1
    let f := (s.work32.f.rotateRight 11 * c1).rotateRight 17 * c1
    let h1 := mix5 ((s.work32.h + g).rotateRight 19)
    let h2 := h1.rotateRight 17 * c1
    let h3 := mix5 ((h2 + f).rotateRight 19)
    ∃ (w : Work32) (k : Nat), exec .hash32 s =
      .next { finished s ((h3.rotateRight 17 * c1).setWidth 64) with work32 := w, draws := k }

/-- R106, R138: a HASH32 with n ≥ 25, its input written, takes exactly 1 + ⌊(n−1)/20⌋ + 1 engine steps, is BUSY until
the last, and ends with the value of the function view; nothing else of the engine changes. What OFF and ITERS hold
afterwards (notes/assumptions/7.md) and that X, Y, Z, V and W keep their values (18.md) are the model's choices. -/
def Obligations.Hash32EngineComputesFunctionView : Prop :=
  ∀ s : State, s.events = [] → s.phase = .setup → current s = .ok .hash32 → 25 ≤ s.latched.len.toNat →
    s.latched.len.toNat ≤ s.params.maxlen.toNat → written s.inbuf s.latched.len.toNat →
      ∃ (d : U32) (w : Work32) (k : Nat) (off : U64),
        hash32View s.params s.inbuf s.latched.len = some d ∧
        run (1 + (s.latched.len.toNat - 1) / 20 + 1) s =
          .next { finished s (d.setWidth 64) with work32 := w, draws := k, off := off, iters := 0 } ∧
        ∀ j, j < 1 + (s.latched.len.toNat - 1) / 20 + 1 →
          ∃ u : State, run j s = .next u ∧ u.busy = true ∧ u.result = s.result

/-! ### Hash64 and its seeded forms -/

/-- R109 to R113: the three Hash64-family commands on 0 ≤ n ≤ 16, branch by branch; the empty input gives K2. The bytes
of the 1..3 branch are zero-extended. That the working registers and counters keep their values is the model's choice
(notes/assumptions/18.md). -/
def Obligations.Hash64UpTo16Bytes : Prop :=
  ∀ (i : Instr) (s : State) (rd : Nat → U8), isHash64 i = true → s.phase = .setup →
    s.latched.len.toNat ≤ s.params.maxlen.toNat → holds s.inbuf rd s.latched.len.toNat →
      let p := s.params
      let len := s.latched.len
      let n := s.latched.len.toNat
      (9 ≤ n → n ≤ 16 → exec i s = .next (finished s (digestResult i s
        (hash128to64 ⟨word64 rd 0, (word64 rd (n - 8) + len).rotateRight n⟩ ^^^ word64 rd (n - 8))))) ∧
      (4 ≤ n → n ≤ 8 → exec i s = .next (finished s (digestResult i s
        (hash128to64 ⟨len + ((word32 rd 0).setWidth 64 <<< 3), (word32 rd (n - 4)).setWidth 64⟩)))) ∧
      (1 ≤ n → n ≤ 3 →
        let y : U32 := (rd 0).setWidth 32 + ((rd (n / 2)).setWidth 32 <<< 8)
        let z : U32 := len.setWidth 32 + ((rd (n - 1)).setWidth 32 <<< 2)
        exec i s = .next (finished s (digestResult i s
          (shiftMix (y.setWidth 64 * p.k2 ^^^ z.setWidth 64 * p.k3) * p.k2)))) ∧
      (n = 0 → exec i s = .next (finished s (digestResult i s p.k2)))

/-- R114: the Hash64-family commands on 17 ≤ n ≤ 32. That the working registers and counters keep their values is the
model's choice (notes/assumptions/18.md). -/
def Obligations.Hash64From17To32Bytes : Prop :=
  ∀ (i : Instr) (s : State) (rd : Nat → U8), isHash64 i = true → s.phase = .setup →
    17 ≤ s.latched.len.toNat → s.latched.len.toNat ≤ 32 →
    s.latched.len.toNat ≤ s.params.maxlen.toNat → holds s.inbuf rd s.latched.len.toNat →
      let p := s.params
      let n := s.latched.len.toNat
      let a := word64 rd 0 * p.k1
      let b := word64 rd 8
      let c := word64 rd (n - 8) * p.k2
      let d := word64 rd (n - 16) * p.k0
      exec i s = .next (finished s (digestResult i s
        (hash128to64 ⟨(a - b).rotateRight 43 + c.rotateRight 30 + d,
          a + (b ^^^ p.k3).rotateRight 20 - c + s.latched.len⟩)))

/-- R115, R116, R117: the Hash64-family commands on 33 ≤ n ≤ 64: the front view, the back view, the combination. That
the working registers and counters keep their values is the model's choice (notes/assumptions/18.md). -/
def Obligations.Hash64From33To64Bytes : Prop :=
  ∀ (i : Instr) (s : State) (rd : Nat → U8), isHash64 i = true → s.phase = .setup →
    33 ≤ s.latched.len.toNat → s.latched.len.toNat ≤ 64 →
    s.latched.len.toNat ≤ s.params.maxlen.toNat → holds s.inbuf rd s.latched.len.toNat →
      let p := s.params
      let n := s.latched.len.toNat
      let z := word64 rd 24
      let a1 := word64 rd 0 + (s.latched.len + word64 rd (n - 16)) * p.k0
      let a2 := a1 + word64 rd 8
      let a3 := a2 + word64 rd 16
      let vFast := a3 + z
      let vSlow := (a1 + z).rotateRight 52 + a3.rotateRight 31 + (a1.rotateRight 37 + a2.rotateRight 7)
      let z' := word64 rd (n - 8)
      let b1 := word64 rd 16 + word64 rd (n - 32)
      let b2 := b1 + word64 rd (n - 24)
      let b3 := b2 + word64 rd (n - 16)
      let wFast := b3 + z'
      let wSlow := (b1 + z').rotateRight 52 + b3.rotateRight 31 + (b1.rotateRight 37 + b2.rotateRight 7)
      let r := shiftMix ((vFast + wSlow) * p.k2 + (wFast + vSlow) * p.k0)
      exec i s = .next (finished s (digestResult i s (shiftMix (r * p.k0 + vSlow) * p.k2)))

/-- R118: the SETUP step of a Hash64-family command for n ≥ 65, reading the tail-64 window and the first word only. That
H, G and F keep their values is the model's choice (notes/assumptions/18.md). -/
def Obligations.Hash64LongSetup : Prop :=
  ∀ (i : Instr) (s : State) (rd : Nat → U8), isHash64 i = true → s.phase = .setup → 65 ≤ s.latched.len.toNat →
    s.latched.len.toNat ≤ s.params.maxlen.toNat →
    holdsAt s.inbuf rd (s.latched.len.toNat - 64) 64 → holdsAt s.inbuf rd 0 8 →
      let k1 := s.params.k1
      let n := s.latched.len.toNat
      let weakAt : Nat → U64 → U64 → U128 := fun o a b =>
        weakHash (word64 rd o) (word64 rd (o + 8)) (word64 rd (o + 16)) (word64 rd (o + 24)) a b
      let x := word64 rd (n - 40)
      let y := word64 rd (n - 16) + word64 rd (n - 56)
      let z := hash128to64 ⟨word64 rd (n - 48) + s.latched.len, word64 rd (n - 24)⟩
      exec i s = .next { s with
        work64 :=
          { x := x * k1 + word64 rd 0
            y := y
            z := z
            v := weakAt (n - 64) s.latched.len z
            w := weakAt (n - 32) (y + k1) x }
        iters := BitVec.ofNat 64 ((n - 1) / 64)
        off := 0
        phase := .loop }

/-- R119: the LOOP step of a Hash64-family command on the 64-byte chunk at OFF, which alone need be written. That H, G
and F keep their values is the model's choice (notes/assumptions/18.md). -/
def Obligations.Hash64LoopStep : Prop :=
  ∀ (i : Instr) (s : State) (rd : Nat → U8), isHash64 i = true → s.phase = .loop →
    holdsAt s.inbuf rd s.off.toNat 64 →
      let k1 := s.params.k1
      let off := s.off.toNat
      let o := s.work64
      let weakAt : Nat → U64 → U64 → U128 := fun o a b =>
        weakHash (word64 rd o) (word64 rd (o + 8)) (word64 rd (o + 16)) (word64 rd (o + 24)) a b
      let x := ((o.x + o.y + o.v.lo + word64 rd (off + 8)).rotateRight 37 * k1) ^^^ o.w.hi
      let y := (o.y + o.v.hi + word64 rd (off + 48)).rotateRight 42 * k1 + (o.v.lo + word64 rd (off + 40))
      let z := (o.z + o.w.lo).rotateRight 33 * k1
      exec i s = .next { s with
        work64 :=
          { x := z
            y := y
            z := x
            v := weakAt off (o.v.hi * k1) (x + o.w.lo)
            w := weakAt (off + 32) (z + o.w.hi) (y + word64 rd (off + 16)) }
        off := s.off + 64
        iters := s.iters - 1
        phase := if s.iters = 1 then .final else .loop }

/-- R120: the FINAL step of a Hash64-family command, with the seeds' post-processing in the same step (R126). What X, Y,
Z, V, W hold afterwards is open (R32). What OFF and ITERS hold afterwards (notes/assumptions/7.md) and that H, G and F
keep their values (18.md) are the model's choices. -/
def Obligations.Hash64FinalStep : Prop :=
  ∀ (i : Instr) (s : State), isHash64 i = true → s.phase = .final →
    let o := s.work64
    let d := hash128to64
      ⟨hash128to64 ⟨o.v.lo, o.w.lo⟩ + shiftMix o.y * s.params.k1 + o.z, hash128to64 ⟨o.v.hi, o.w.hi⟩ + o.x⟩
    ∃ (w : Work64) (k : Nat), exec i s = .next { finished s (digestResult i s d) with work64 := w, draws := k }

/-- R122, R126, R138: HASH64, HASH64_SEED or HASH64_SEEDS with n ≥ 65, its input written, takes exactly 1 + ⌊(n−1)/64⌋ +
1 engine steps, is BUSY until the last, and ends with the function view's digest, post-processed by the command; nothing
else of the engine changes. What OFF and ITERS hold afterwards (notes/assumptions/7.md) and that H, G and F keep their
values (18.md) are the model's choices. -/
def Obligations.Hash64EngineComputesFunctionView : Prop :=
  ∀ (i : Instr) (s : State), isHash64 i = true → s.events = [] → s.phase = .setup → current s = .ok i →
    65 ≤ s.latched.len.toNat → s.latched.len.toNat ≤ s.params.maxlen.toNat →
    written s.inbuf s.latched.len.toNat →
      ∃ (d : U64) (w : Work64) (k : Nat) (off : U64),
        hash64View s.params s.inbuf s.latched.len = some d ∧
        run (1 + (s.latched.len.toNat - 1) / 64 + 1) s =
          .next { finished s (digestResult i s d) with work64 := w, draws := k, off := off, iters := 0 } ∧
        ∀ j, j < 1 + (s.latched.len.toNat - 1) / 64 + 1 →
          ∃ u : State, run j s = .next u ∧ u.busy = true ∧ u.result = s.result

/-- R125, and the corner cases of R127 and R128: seed0 = K2 makes HASH64_SEEDS take the very step HASH64_SEED takes with
seed = seed1, in every phase; the empty input with seed 0 gives 0. The step in PHASE = IDLE, and that the working
registers and counters keep their values, are the model's choices (notes/assumptions/12.md, 18.md). -/
def Obligations.SeedIsTwoSeedsWithK2 : Prop :=
  (∀ s : State, s.latched.seed0 = s.params.k2 →
    exec .hash64Seeds s =
      mapNext (fun t => { t with latched := s.latched })
        (exec .hash64Seed { s with latched := { s.latched with seed0 := s.latched.seed1 } })) ∧
  ∀ s : State, s.phase = .setup → s.latched.len = 0 → s.latched.seed0 = 0 →
    exec .hash64Seed s = .next (finished s 0)

/-! ### What a command may read and change -/

/-- R149: a command faults exactly when it reads an INBUF byte whose written mark is clear. The bytes it reads: all of
[0, n) for a short digest; the tail, and for Hash64 the first word, at a long SETUP; the chunk at OFF in LOOP; the
operand window of a memory primitive. That a memory primitive takes its step in every PHASE is the model's choice
(notes/assumptions/12.md). -/
def Obligations.FaultsExactlyOnUnwrittenInput : Prop :=
  ∀ (i : Instr) (s : State),
    ((i = .hash32 ∧ s.latched.len.toNat ≤ 24) ∨ (isHash64 i = true ∧ s.latched.len.toNat ≤ 64) →
      s.phase = .setup → s.latched.len.toNat ≤ s.params.maxlen.toNat →
        (exec i s = .fault .unwrittenInbuf ↔ ∃ a, a < s.latched.len.toNat ∧ s.inbuf.readByte a = none)) ∧
    (i = .hash32 → 25 ≤ s.latched.len.toNat → s.phase = .setup → s.latched.len.toNat ≤ s.params.maxlen.toNat →
        (exec i s = .fault .unwrittenInbuf ↔
          ∃ a, s.latched.len.toNat - 20 ≤ a ∧ a < s.latched.len.toNat ∧ s.inbuf.readByte a = none)) ∧
    (isHash64 i = true → 65 ≤ s.latched.len.toNat → s.phase = .setup →
      s.latched.len.toNat ≤ s.params.maxlen.toNat →
        (exec i s = .fault .unwrittenInbuf ↔
          ∃ a, (a < 8 ∨ (s.latched.len.toNat - 64 ≤ a ∧ a < s.latched.len.toNat)) ∧
            s.inbuf.readByte a = none)) ∧
    (∀ c, (i = .hash32 ∧ c = 20) ∨ (isHash64 i = true ∧ c = 64) → s.phase = .loop →
        (exec i s = .fault .unwrittenInbuf ↔
          ∃ a, s.off.toNat ≤ a ∧ a < s.off.toNat + c ∧ s.inbuf.readByte a = none)) ∧
    (∀ k, readWidth i = some k → s.latched.len.toNat ≤ s.params.maxlen.toNat →
      s.latched.opa.toNat + k ≤ s.latched.len.toNat →
        (exec i s = .fault .unwrittenInbuf ↔
          ∃ a, s.latched.opa.toNat ≤ a ∧ a < s.latched.opa.toNat + k ∧ s.inbuf.readByte a = none))

/-- R45: every INBUF address a command reads lies in [0, n): in a state of the invariant, changing INBUF anywhere else
changes nothing about the running command's next step. -/
def Obligations.StepDependsOnlyOnInputBytes : Prop :=
  ∀ (i : Instr) (s : State) (m : Memory), s.Inv → s.busy = true → current s = .ok i →
    (∀ a, a < s.latched.len.toNat → m.readByte a = s.inbuf.readByte a) →
      exec i { s with inbuf := m } = mapNext (fun t => { t with inbuf := m }) (exec i s)

/-- The frame of every command (R25, R28, R40, R136, R137): what an engine step leaves unchanged. The last three clauses, on
the working registers and counters of a command that does not use them, are the model's choice (notes/assumptions/18.md);
so is what it says of a PHASE the command never runs in (notes/assumptions/12.md). -/
def Obligations.CommandFrame : Prop :=
  ∀ (i : Instr) (s t : State), exec i s = .next t →
    t.params = s.params ∧ t.regs = s.regs ∧ t.latched = s.latched ∧ t.opcodeL = s.opcodeL ∧
    t.cmdrsvL = s.cmdrsvL ∧ t.doneIe = s.doneIe ∧ t.events = s.events ∧ t.hostData = s.hostData ∧
    t.status.wdrop = s.status.wdrop ∧
    (∀ a, t.inbuf.readByte a = s.inbuf.readByte a) ∧ t.inbuf = s.inbuf ∧
    (i ≠ .weakhash → i ≠ .weakhashMem → t.resultHi = s.resultHi) ∧
    (t.busy = true → t.result = s.result ∧ t.resultHi = s.resultHi ∧ t.status = s.status) ∧
    (t.status.err = true → t.result = s.result ∧ t.resultHi = s.resultHi) ∧
    (t.busy = false → t.status.done = true) ∧
    (i ≠ .hash32 → t.work32 = s.work32) ∧
    (isHash64 i = false → t.work64 = s.work64) ∧
    (i ≠ .hash32 → isHash64 i = false → t.off = s.off ∧ t.iters = s.iters ∧ t.draws = s.draws)

/-! ### The whole machine -/

/-- The invariant holds in `State.reset` (rests on the model's choice of parameters there, notes/assumptions/2.md). -/
def Obligations.InvariantHoldsAtReset : Prop := State.reset.Inv

/-- Every step of the machine keeps the invariant: host accesses, engine steps and reset alike. -/
def Obligations.EveryStepKeepsInvariant : Prop :=
  ∀ s t : State, s.Inv → step s = .next t → t.Inv

/-- R138: every accepted command completes after exactly the number of engine steps the spec gives, if no host event
comes between and the input it may read is written. It is BUSY before the last step and DONE after it. -/
def Obligations.EveryCommandCompletesInExactlyItsSteps : Prop :=
  ∀ s : State, s.Inv → s.busy = true → s.events = [] →
    (∀ i, current s = .ok i → readsInbuf i = true → s.latched.len.toNat ≤ s.params.maxlen.toNat →
      written s.inbuf s.latched.len.toNat) →
    (∃ t : State, run (stepsLeft s) s = .next t ∧ t.busy = false ∧ t.status.done = true) ∧
    ∀ j, j < stepsLeft s → ∃ u : State, run j s = .next u ∧ u.busy = true

/-- R142: WDROP is set by each dropped host write (a CMD write while BUSY, an INBUF write while BUSY or at or above
MAXLEN) and by nothing else, stays 1 until a W1C write of bit 3 or reset, and does not affect `irq`. That nothing else sets it reads R142's list as
complete, which is the model's inference (notes/assumptions/17.md). -/
def Obligations.WdropSetExactlyByDroppedWrites : Prop :=
  (∀ (s : State) (word : U64) (rest : List Event), s.busy = true →
    s.events = .host (.regWrite 0x00 8 word) :: rest → ∃ t, step s = .next t ∧ t.status.wdrop = true) ∧
  (∀ (s : State) (a : Nat) (b : U8) (rest : List Event), s.busy = true ∨ s.params.maxlen.toNat ≤ a →
    s.events = .host (.bufWrite a b) :: rest → ∃ t, step s = .next t ∧ t.status.wdrop = true) ∧
  (∀ s t : State, step s = .next t → s.status.wdrop = false → t.status.wdrop = true →
    (s.busy = true ∧ ∃ word rest, s.events = .host (.regWrite 0x00 8 word) :: rest) ∨
      ∃ a b rest, s.events = .host (.bufWrite a b) :: rest ∧ (s.busy = true ∨ s.params.maxlen.toNat ≤ a)) ∧
  (∀ s t : State, step s = .next t → s.status.wdrop = true → t.status.wdrop = false →
    (∃ rest, s.events = .reset :: rest) ∨
      ∃ v rest, s.events = .host (.regWrite 0x08 8 v) :: rest ∧ v.getLsbD 3 = true) ∧
  ∀ (s : State) (b : Bool), irq { s with status := { s.status with wdrop := b } } = irq s

/-- R28, R141: from acceptance to completion the latched copies do not change, and nothing ends or changes a running command
but its own steps and reset: a host access or `wait` leaves its phase, working registers, counters and results alone. -/
def Obligations.RunningCommandIsNotDisturbed : Prop :=
  ∀ s t : State, s.busy = true → (∀ rest, s.events ≠ .reset :: rest) → step s = .next t →
    t.latched = s.latched ∧ t.opcodeL = s.opcodeL ∧ t.cmdrsvL = s.cmdrsvL ∧ t.inbuf = s.inbuf ∧
    (t.busy = false → t.status.done = true ∧ (s.events = [] ∨ ∃ rest, s.events = .engine :: rest)) ∧
    ((∃ x rest, s.events = .host x :: rest) ∨ (∃ rest, s.events = .wait :: rest) →
      t.phase = s.phase ∧ t.work32 = s.work32 ∧ t.work64 = s.work64 ∧ t.off = s.off ∧ t.iters = s.iters ∧
        t.result = s.result ∧ t.resultHi = s.resultHi ∧ t.params = s.params ∧ t.status.err = s.status.err ∧
        t.status.errcode = s.status.errcode)

/-- R159: while BUSY = 1, RESULT and RESULT_HI hold the previous command's values: no step that leaves the engine BUSY
changes them. -/
def Obligations.ResultIsStaleWhileBusy : Prop :=
  ∀ s t : State, step s = .next t → t.busy = true → t.result = s.result ∧ t.resultHi = s.resultHi

/-- R160: DONE stays 1 until the next acceptance, which clears it in the same step, a W1C write, or reset; after an
accepted CMD write STATUS does not show the previous command's DONE. -/
def Obligations.DoneIsSticky : Prop :=
  (∀ s t : State, step s = .next t → s.status.done = true → t.status.done = false →
    (∃ rest, s.events = .reset :: rest) ∨
    (∃ v rest, s.events = .host (.regWrite 0x08 8 v) :: rest ∧ v.getLsbD 1 = true) ∨
    (s.busy = false ∧ t.busy = true ∧ ∃ word rest, s.events = .host (.regWrite 0x00 8 word) :: rest)) ∧
  ∀ (s : State) (word : U64), s.busy = false →
    (writeReg .cmd word s).busy = true ∧ (readReg .status (writeReg .cmd word s)).getLsbD 1 = false

/-- R68, R69: a line decodes to the transaction it encodes; `wait` reads STATUS and ends when it has read DONE = 1, and
in a state of the invariant with the input of the running command written it does end. That the engine takes one step
between two polls is the model's choice (notes/assumptions/13.md). -/
def Obligations.HostSequenceLinesAndWait : Prop :=
  (∀ t l, encodeTxn t = some l → decodeLine l = t) ∧
  (∀ (s : State) (rest : List Event), s.events = .wait :: rest → s.status.done = true →
    step s = .next { s with events := rest, hostData := statusWord s }) ∧
  ∀ (s : State) (rest : List Event), s.Inv → s.busy = true → s.events = .wait :: rest →
    (∀ i, current s = .ok i → readsInbuf i = true → s.latched.len.toNat ≤ s.params.maxlen.toNat →
      written s.inbuf s.latched.len.toNat) →
    ∃ t : State, run (2 * stepsLeft s + 1) s = .next t ∧ t.events = rest ∧ t.busy = false ∧
      t.hostData.getLsbD 1 = true
end

