-- ==== Sys2Proof/Laws/State.lean ====
section
/-! SUPPORT. One lemma for each field of State under each named update of Machine/Ops.lean, so that no later proof unfolds a
record update. -/

namespace Sys2Proof.Machine

/-! ### `accept` -/

@[simp] theorem accept_params (word : U64) (s : State) : (accept word s).params = s.params := rfl
@[simp] theorem accept_regs (word : U64) (s : State) : (accept word s).regs = s.regs := rfl
@[simp] theorem accept_status (word : U64) (s : State) : (accept word s).status = s.status.accept := rfl
@[simp] theorem accept_doneIe (word : U64) (s : State) : (accept word s).doneIe = s.doneIe := rfl
@[simp] theorem accept_result (word : U64) (s : State) : (accept word s).result = s.result := rfl
@[simp] theorem accept_resultHi (word : U64) (s : State) : (accept word s).resultHi = s.resultHi := rfl
@[simp] theorem accept_opcodeL (word : U64) (s : State) : (accept word s).opcodeL = opcodeField word := rfl
@[simp] theorem accept_cmdrsvL (word : U64) (s : State) : (accept word s).cmdrsvL = rsvSet word := rfl
@[simp] theorem accept_latched (word : U64) (s : State) : (accept word s).latched = s.regs := rfl
@[simp] theorem accept_phase (word : U64) (s : State) : (accept word s).phase = Phase.setup := rfl
@[simp] theorem accept_work32 (word : U64) (s : State) : (accept word s).work32 = s.work32 := rfl
@[simp] theorem accept_work64 (word : U64) (s : State) : (accept word s).work64 = s.work64 := rfl
@[simp] theorem accept_off (word : U64) (s : State) : (accept word s).off = s.off := rfl
@[simp] theorem accept_iters (word : U64) (s : State) : (accept word s).iters = s.iters := rfl
@[simp] theorem accept_inbuf (word : U64) (s : State) : (accept word s).inbuf = s.inbuf := rfl
@[simp] theorem accept_events (word : U64) (s : State) : (accept word s).events = s.events := rfl
@[simp] theorem accept_hostData (word : U64) (s : State) : (accept word s).hostData = s.hostData := rfl
@[simp] theorem accept_draws (word : U64) (s : State) : (accept word s).draws = s.draws := rfl

/-! ### `raiseError` -/

@[simp] theorem raiseError_params (e : CmdError) (s : State) : (raiseError e s).params = s.params := rfl
@[simp] theorem raiseError_regs (e : CmdError) (s : State) : (raiseError e s).regs = s.regs := rfl
@[simp] theorem raiseError_status (e : CmdError) (s : State) : (raiseError e s).status = s.status.fail e := rfl
@[simp] theorem raiseError_doneIe (e : CmdError) (s : State) : (raiseError e s).doneIe = s.doneIe := rfl
@[simp] theorem raiseError_result (e : CmdError) (s : State) : (raiseError e s).result = s.result := rfl
@[simp] theorem raiseError_resultHi (e : CmdError) (s : State) : (raiseError e s).resultHi = s.resultHi := rfl
@[simp] theorem raiseError_opcodeL (e : CmdError) (s : State) : (raiseError e s).opcodeL = s.opcodeL := rfl
@[simp] theorem raiseError_cmdrsvL (e : CmdError) (s : State) : (raiseError e s).cmdrsvL = s.cmdrsvL := rfl
@[simp] theorem raiseError_latched (e : CmdError) (s : State) : (raiseError e s).latched = s.latched := rfl
@[simp] theorem raiseError_phase (e : CmdError) (s : State) : (raiseError e s).phase = Phase.idle := rfl
@[simp] theorem raiseError_work32 (e : CmdError) (s : State) : (raiseError e s).work32 = s.work32 := rfl
@[simp] theorem raiseError_work64 (e : CmdError) (s : State) : (raiseError e s).work64 = s.work64 := rfl
@[simp] theorem raiseError_off (e : CmdError) (s : State) : (raiseError e s).off = s.off := rfl
@[simp] theorem raiseError_iters (e : CmdError) (s : State) : (raiseError e s).iters = s.iters := rfl
@[simp] theorem raiseError_inbuf (e : CmdError) (s : State) : (raiseError e s).inbuf = s.inbuf := rfl
@[simp] theorem raiseError_events (e : CmdError) (s : State) : (raiseError e s).events = s.events := rfl
@[simp] theorem raiseError_hostData (e : CmdError) (s : State) : (raiseError e s).hostData = s.hostData := rfl
@[simp] theorem raiseError_draws (e : CmdError) (s : State) : (raiseError e s).draws = s.draws := rfl

/-! ### `complete` -/

@[simp] theorem complete_params (r : U64) (s : State) : (complete r s).params = s.params := rfl
@[simp] theorem complete_regs (r : U64) (s : State) : (complete r s).regs = s.regs := rfl
@[simp] theorem complete_status (r : U64) (s : State) : (complete r s).status = s.status.complete := rfl
@[simp] theorem complete_doneIe (r : U64) (s : State) : (complete r s).doneIe = s.doneIe := rfl
@[simp] theorem complete_result (r : U64) (s : State) : (complete r s).result = r := rfl
@[simp] theorem complete_resultHi (r : U64) (s : State) : (complete r s).resultHi = s.resultHi := rfl
@[simp] theorem complete_opcodeL (r : U64) (s : State) : (complete r s).opcodeL = s.opcodeL := rfl
@[simp] theorem complete_cmdrsvL (r : U64) (s : State) : (complete r s).cmdrsvL = s.cmdrsvL := rfl
@[simp] theorem complete_latched (r : U64) (s : State) : (complete r s).latched = s.latched := rfl
@[simp] theorem complete_phase (r : U64) (s : State) : (complete r s).phase = Phase.idle := rfl
@[simp] theorem complete_work32 (r : U64) (s : State) : (complete r s).work32 = s.work32 := rfl
@[simp] theorem complete_work64 (r : U64) (s : State) : (complete r s).work64 = s.work64 := rfl
@[simp] theorem complete_off (r : U64) (s : State) : (complete r s).off = s.off := rfl
@[simp] theorem complete_iters (r : U64) (s : State) : (complete r s).iters = s.iters := rfl
@[simp] theorem complete_inbuf (r : U64) (s : State) : (complete r s).inbuf = s.inbuf := rfl
@[simp] theorem complete_events (r : U64) (s : State) : (complete r s).events = s.events := rfl
@[simp] theorem complete_hostData (r : U64) (s : State) : (complete r s).hostData = s.hostData := rfl
@[simp] theorem complete_draws (r : U64) (s : State) : (complete r s).draws = s.draws := rfl

/-! ### `completePair` -/

@[simp] theorem completePair_params (r : U128) (s : State) : (completePair r s).params = s.params := rfl
@[simp] theorem completePair_regs (r : U128) (s : State) : (completePair r s).regs = s.regs := rfl
@[simp] theorem completePair_status (r : U128) (s : State) : (completePair r s).status = s.status.complete := rfl
@[simp] theorem completePair_doneIe (r : U128) (s : State) : (completePair r s).doneIe = s.doneIe := rfl
@[simp] theorem completePair_result (r : U128) (s : State) : (completePair r s).result = r.lo := rfl
@[simp] theorem completePair_resultHi (r : U128) (s : State) : (completePair r s).resultHi = r.hi := rfl
@[simp] theorem completePair_opcodeL (r : U128) (s : State) : (completePair r s).opcodeL = s.opcodeL := rfl
@[simp] theorem completePair_cmdrsvL (r : U128) (s : State) : (completePair r s).cmdrsvL = s.cmdrsvL := rfl
@[simp] theorem completePair_latched (r : U128) (s : State) : (completePair r s).latched = s.latched := rfl
@[simp] theorem completePair_phase (r : U128) (s : State) : (completePair r s).phase = Phase.idle := rfl
@[simp] theorem completePair_work32 (r : U128) (s : State) : (completePair r s).work32 = s.work32 := rfl
@[simp] theorem completePair_work64 (r : U128) (s : State) : (completePair r s).work64 = s.work64 := rfl
@[simp] theorem completePair_off (r : U128) (s : State) : (completePair r s).off = s.off := rfl
@[simp] theorem completePair_iters (r : U128) (s : State) : (completePair r s).iters = s.iters := rfl
@[simp] theorem completePair_inbuf (r : U128) (s : State) : (completePair r s).inbuf = s.inbuf := rfl
@[simp] theorem completePair_events (r : U128) (s : State) : (completePair r s).events = s.events := rfl
@[simp] theorem completePair_hostData (r : U128) (s : State) : (completePair r s).hostData = s.hostData := rfl
@[simp] theorem completePair_draws (r : U128) (s : State) : (completePair r s).draws = s.draws := rfl

/-! ### `startLoop` -/

@[simp] theorem startLoop_params (c : U64) (s : State) : (startLoop c s).params = s.params := rfl
@[simp] theorem startLoop_regs (c : U64) (s : State) : (startLoop c s).regs = s.regs := rfl
@[simp] theorem startLoop_status (c : U64) (s : State) : (startLoop c s).status = s.status := rfl
@[simp] theorem startLoop_doneIe (c : U64) (s : State) : (startLoop c s).doneIe = s.doneIe := rfl
@[simp] theorem startLoop_result (c : U64) (s : State) : (startLoop c s).result = s.result := rfl
@[simp] theorem startLoop_resultHi (c : U64) (s : State) : (startLoop c s).resultHi = s.resultHi := rfl
@[simp] theorem startLoop_opcodeL (c : U64) (s : State) : (startLoop c s).opcodeL = s.opcodeL := rfl
@[simp] theorem startLoop_cmdrsvL (c : U64) (s : State) : (startLoop c s).cmdrsvL = s.cmdrsvL := rfl
@[simp] theorem startLoop_latched (c : U64) (s : State) : (startLoop c s).latched = s.latched := rfl
@[simp] theorem startLoop_phase (c : U64) (s : State) : (startLoop c s).phase = Phase.loop := rfl
@[simp] theorem startLoop_work32 (c : U64) (s : State) : (startLoop c s).work32 = s.work32 := rfl
@[simp] theorem startLoop_work64 (c : U64) (s : State) : (startLoop c s).work64 = s.work64 := rfl
@[simp] theorem startLoop_off (c : U64) (s : State) : (startLoop c s).off = 0 := rfl
@[simp] theorem startLoop_iters (c : U64) (s : State) : (startLoop c s).iters = c := rfl
@[simp] theorem startLoop_inbuf (c : U64) (s : State) : (startLoop c s).inbuf = s.inbuf := rfl
@[simp] theorem startLoop_events (c : U64) (s : State) : (startLoop c s).events = s.events := rfl
@[simp] theorem startLoop_hostData (c : U64) (s : State) : (startLoop c s).hostData = s.hostData := rfl
@[simp] theorem startLoop_draws (c : U64) (s : State) : (startLoop c s).draws = s.draws := rfl

/-! ### `advanceLoop` -/

@[simp] theorem advanceLoop_params (c : U64) (s : State) : (advanceLoop c s).params = s.params := rfl
@[simp] theorem advanceLoop_regs (c : U64) (s : State) : (advanceLoop c s).regs = s.regs := rfl
@[simp] theorem advanceLoop_status (c : U64) (s : State) : (advanceLoop c s).status = s.status := rfl
@[simp] theorem advanceLoop_doneIe (c : U64) (s : State) : (advanceLoop c s).doneIe = s.doneIe := rfl
@[simp] theorem advanceLoop_result (c : U64) (s : State) : (advanceLoop c s).result = s.result := rfl
@[simp] theorem advanceLoop_resultHi (c : U64) (s : State) : (advanceLoop c s).resultHi = s.resultHi := rfl
@[simp] theorem advanceLoop_opcodeL (c : U64) (s : State) : (advanceLoop c s).opcodeL = s.opcodeL := rfl
@[simp] theorem advanceLoop_cmdrsvL (c : U64) (s : State) : (advanceLoop c s).cmdrsvL = s.cmdrsvL := rfl
@[simp] theorem advanceLoop_latched (c : U64) (s : State) : (advanceLoop c s).latched = s.latched := rfl
@[simp] theorem advanceLoop_phase (c : U64) (s : State) : (advanceLoop c s).phase = if s.iters - 1 = 0 then Phase.final else Phase.loop := rfl
@[simp] theorem advanceLoop_work32 (c : U64) (s : State) : (advanceLoop c s).work32 = s.work32 := rfl
@[simp] theorem advanceLoop_work64 (c : U64) (s : State) : (advanceLoop c s).work64 = s.work64 := rfl
@[simp] theorem advanceLoop_off (c : U64) (s : State) : (advanceLoop c s).off = s.off + c := rfl
@[simp] theorem advanceLoop_iters (c : U64) (s : State) : (advanceLoop c s).iters = s.iters - 1 := rfl
@[simp] theorem advanceLoop_inbuf (c : U64) (s : State) : (advanceLoop c s).inbuf = s.inbuf := rfl
@[simp] theorem advanceLoop_events (c : U64) (s : State) : (advanceLoop c s).events = s.events := rfl
@[simp] theorem advanceLoop_hostData (c : U64) (s : State) : (advanceLoop c s).hostData = s.hostData := rfl
@[simp] theorem advanceLoop_draws (c : U64) (s : State) : (advanceLoop c s).draws = s.draws := rfl

/-! ### `retire32` -/

@[simp] theorem retire32_params (s : State) : (retire32 s).params = s.params := rfl
@[simp] theorem retire32_regs (s : State) : (retire32 s).regs = s.regs := rfl
@[simp] theorem retire32_status (s : State) : (retire32 s).status = s.status := rfl
@[simp] theorem retire32_doneIe (s : State) : (retire32 s).doneIe = s.doneIe := rfl
@[simp] theorem retire32_result (s : State) : (retire32 s).result = s.result := rfl
@[simp] theorem retire32_resultHi (s : State) : (retire32 s).resultHi = s.resultHi := rfl
@[simp] theorem retire32_opcodeL (s : State) : (retire32 s).opcodeL = s.opcodeL := rfl
@[simp] theorem retire32_cmdrsvL (s : State) : (retire32 s).cmdrsvL = s.cmdrsvL := rfl
@[simp] theorem retire32_latched (s : State) : (retire32 s).latched = s.latched := rfl
@[simp] theorem retire32_phase (s : State) : (retire32 s).phase = s.phase := rfl
@[simp] theorem retire32_work64 (s : State) : (retire32 s).work64 = s.work64 := rfl
@[simp] theorem retire32_off (s : State) : (retire32 s).off = s.off := rfl
@[simp] theorem retire32_iters (s : State) : (retire32 s).iters = s.iters := rfl
@[simp] theorem retire32_inbuf (s : State) : (retire32 s).inbuf = s.inbuf := rfl
@[simp] theorem retire32_events (s : State) : (retire32 s).events = s.events := rfl
@[simp] theorem retire32_hostData (s : State) : (retire32 s).hostData = s.hostData := rfl
@[simp] theorem retire32_draws (s : State) : (retire32 s).draws = s.draws + 3 := rfl

/-! ### `retire64` -/

@[simp] theorem retire64_params (s : State) : (retire64 s).params = s.params := rfl
@[simp] theorem retire64_regs (s : State) : (retire64 s).regs = s.regs := rfl
@[simp] theorem retire64_status (s : State) : (retire64 s).status = s.status := rfl
@[simp] theorem retire64_doneIe (s : State) : (retire64 s).doneIe = s.doneIe := rfl
@[simp] theorem retire64_result (s : State) : (retire64 s).result = s.result := rfl
@[simp] theorem retire64_resultHi (s : State) : (retire64 s).resultHi = s.resultHi := rfl
@[simp] theorem retire64_opcodeL (s : State) : (retire64 s).opcodeL = s.opcodeL := rfl
@[simp] theorem retire64_cmdrsvL (s : State) : (retire64 s).cmdrsvL = s.cmdrsvL := rfl
@[simp] theorem retire64_latched (s : State) : (retire64 s).latched = s.latched := rfl
@[simp] theorem retire64_phase (s : State) : (retire64 s).phase = s.phase := rfl
@[simp] theorem retire64_work32 (s : State) : (retire64 s).work32 = s.work32 := rfl
@[simp] theorem retire64_off (s : State) : (retire64 s).off = s.off := rfl
@[simp] theorem retire64_iters (s : State) : (retire64 s).iters = s.iters := rfl
@[simp] theorem retire64_inbuf (s : State) : (retire64 s).inbuf = s.inbuf := rfl
@[simp] theorem retire64_events (s : State) : (retire64 s).events = s.events := rfl
@[simp] theorem retire64_hostData (s : State) : (retire64 s).hostData = s.hostData := rfl
@[simp] theorem retire64_draws (s : State) : (retire64 s).draws = s.draws + 7 := rfl

/-! ### `applyReset` -/

@[simp] theorem applyReset_params (s : State) : (applyReset s).params = s.params := rfl
@[simp] theorem applyReset_regs (s : State) : (applyReset s).regs = OperandRegs.zero := rfl
@[simp] theorem applyReset_status (s : State) : (applyReset s).status = Status.zero := rfl
@[simp] theorem applyReset_doneIe (s : State) : (applyReset s).doneIe = false := rfl
@[simp] theorem applyReset_result (s : State) : (applyReset s).result = 0 := rfl
@[simp] theorem applyReset_resultHi (s : State) : (applyReset s).resultHi = 0 := rfl
@[simp] theorem applyReset_opcodeL (s : State) : (applyReset s).opcodeL = 0 := rfl
@[simp] theorem applyReset_cmdrsvL (s : State) : (applyReset s).cmdrsvL = false := rfl
@[simp] theorem applyReset_latched (s : State) : (applyReset s).latched = OperandRegs.zero := rfl
@[simp] theorem applyReset_phase (s : State) : (applyReset s).phase = Phase.idle := rfl
@[simp] theorem applyReset_work32 (s : State) : (applyReset s).work32 = Work32.zero := rfl
@[simp] theorem applyReset_work64 (s : State) : (applyReset s).work64 = Work64.zero := rfl
@[simp] theorem applyReset_off (s : State) : (applyReset s).off = 0 := rfl
@[simp] theorem applyReset_iters (s : State) : (applyReset s).iters = 0 := rfl
@[simp] theorem applyReset_inbuf (s : State) : (applyReset s).inbuf = s.inbuf.clearMarks := rfl
@[simp] theorem applyReset_events (s : State) : (applyReset s).events = s.events := rfl
@[simp] theorem applyReset_hostData (s : State) : (applyReset s).hostData = s.hostData := rfl
@[simp] theorem applyReset_draws (s : State) : (applyReset s).draws = s.draws := rfl

/-! ### `dropWrite` -/

@[simp] theorem dropWrite_params (s : State) : (dropWrite s).params = s.params := rfl
@[simp] theorem dropWrite_regs (s : State) : (dropWrite s).regs = s.regs := rfl
@[simp] theorem dropWrite_status (s : State) : (dropWrite s).status = s.status.drop := rfl
@[simp] theorem dropWrite_doneIe (s : State) : (dropWrite s).doneIe = s.doneIe := rfl
@[simp] theorem dropWrite_result (s : State) : (dropWrite s).result = s.result := rfl
@[simp] theorem dropWrite_resultHi (s : State) : (dropWrite s).resultHi = s.resultHi := rfl
@[simp] theorem dropWrite_opcodeL (s : State) : (dropWrite s).opcodeL = s.opcodeL := rfl
@[simp] theorem dropWrite_cmdrsvL (s : State) : (dropWrite s).cmdrsvL = s.cmdrsvL := rfl
@[simp] theorem dropWrite_latched (s : State) : (dropWrite s).latched = s.latched := rfl
@[simp] theorem dropWrite_phase (s : State) : (dropWrite s).phase = s.phase := rfl
@[simp] theorem dropWrite_work32 (s : State) : (dropWrite s).work32 = s.work32 := rfl
@[simp] theorem dropWrite_work64 (s : State) : (dropWrite s).work64 = s.work64 := rfl
@[simp] theorem dropWrite_off (s : State) : (dropWrite s).off = s.off := rfl
@[simp] theorem dropWrite_iters (s : State) : (dropWrite s).iters = s.iters := rfl
@[simp] theorem dropWrite_inbuf (s : State) : (dropWrite s).inbuf = s.inbuf := rfl
@[simp] theorem dropWrite_events (s : State) : (dropWrite s).events = s.events := rfl
@[simp] theorem dropWrite_hostData (s : State) : (dropWrite s).hostData = s.hostData := rfl
@[simp] theorem dropWrite_draws (s : State) : (dropWrite s).draws = s.draws := rfl

/-! ### STATUS -/

@[simp] theorem status_accept_wdrop (st : Status) : st.accept.wdrop = st.wdrop := rfl
@[simp] theorem status_accept_done (st : Status) : st.accept.done = false := rfl
@[simp] theorem status_accept_err (st : Status) : st.accept.err = false := rfl
@[simp] theorem status_accept_errcode (st : Status) : st.accept.errcode = 0 := rfl
@[simp] theorem status_complete_wdrop (st : Status) : st.complete.wdrop = st.wdrop := rfl
@[simp] theorem status_complete_done (st : Status) : st.complete.done = true := rfl
@[simp] theorem status_complete_err (st : Status) : st.complete.err = false := rfl
@[simp] theorem status_complete_errcode (st : Status) : st.complete.errcode = 0 := rfl
@[simp] theorem status_fail_wdrop (st : Status) (e : CmdError) : (st.fail e).wdrop = st.wdrop := rfl
@[simp] theorem status_fail_done (st : Status) (e : CmdError) : (st.fail e).done = true := rfl
@[simp] theorem status_fail_err (st : Status) (e : CmdError) : (st.fail e).err = true := rfl
@[simp] theorem status_fail_errcode (st : Status) (e : CmdError) : (st.fail e).errcode = CmdError.code e := rfl
@[simp] theorem status_drop_wdrop (st : Status) : st.drop.wdrop = true := rfl
@[simp] theorem status_drop_done (st : Status) : st.drop.done = st.done := rfl
@[simp] theorem status_drop_err (st : Status) : st.drop.err = st.err := rfl
@[simp] theorem status_drop_errcode (st : Status) : st.drop.errcode = st.errcode := rfl
@[simp] theorem status_hostWrite_wdrop (st : Status) (v : U64) :
    (st.hostWrite v).wdrop = (st.wdrop && !v.getLsbD 3) := rfl
@[simp] theorem status_hostWrite_done (st : Status) (v : U64) :
    (st.hostWrite v).done = (st.done && !v.getLsbD 1) := rfl
@[simp] theorem status_hostWrite_err (st : Status) (v : U64) : (st.hostWrite v).err = st.err := rfl
@[simp] theorem status_hostWrite_errcode (st : Status) (v : U64) : (st.hostWrite v).errcode = st.errcode := rfl

/-! ### BUSY -/

@[simp] theorem phase_busy_idle : Phase.idle.busy = false := rfl
@[simp] theorem phase_busy_setup : Phase.setup.busy = true := rfl
@[simp] theorem phase_busy_loop : Phase.loop.busy = true := rfl
@[simp] theorem phase_busy_final : Phase.final.busy = true := rfl

/-- BUSY = 1 exactly when PHASE ≠ IDLE (10_state.md R29). -/
theorem busy_iff (s : State) : s.busy = true ↔ s.phase ≠ .idle := by
  unfold State.busy
  cases s.phase <;> simp

/-! ### The statements' vocabulary is the model's -/

theorem complete_eq_finished (s : State) (r : U64) : complete r s = finished s r := rfl

theorem completePair_eq_finishedPair (s : State) (r : U128) : completePair r s = finishedPair s r.lo r.hi := rfl

theorem raiseError_eq_failed (s : State) (e : CmdError) : raiseError e s = failed s (CmdError.code e) := rfl

end Sys2Proof.Machine
end

