-- ==== Sys2Proof/Laws/Decode.lean ====
section
/-! SUPPORT. The fields of a command word as numbers, and what the decoder makes of them. -/

namespace Sys2Proof

theorem opcodeField_toNat (w : U64) : (opcodeField w).toNat = w.toNat % 256 := by
  simp [opcodeField]

theorem rsvSet_iff (w : U64) : rsvSet w = true ↔ w.toNat / 256 ≠ 0 := by
  have h := w.isLt
  simp only [rsvSet, rsvField, bne_iff_ne, ne_eq, not_iff_not]
  rw [← BitVec.toNat_inj]
  simp only [BitVec.extractLsb'_toNat, Nat.shiftRight_eq_div_pow]
  rw [Nat.mod_eq_of_lt (by omega)]
  exact Iff.rfl

theorem rsvSet_eq (w : U64) : rsvSet w = decide (w.toNat / 256 ≠ 0) := by
  rw [Bool.eq_iff_iff, rsvSet_iff]
  simp

@[simp] theorem decodeLatched_reserved (op : U8) : decodeLatched op true = .error .reserved := rfl

theorem decodeLatched_ok_iff (op : U8) (rsv : Bool) (i : Instr) :
    decodeLatched op rsv = .ok i ↔ rsv = false ∧ opcodeMap op = some i := by
  unfold decodeLatched
  cases rsv
  · cases opcodeMap op <;> simp
  · simp

/-- The opcode map and the encoder agree on every opcode (30_encoding.md R63). -/
theorem opcodeMap_opcodeOf (i : Instr) : opcodeMap (opcodeOf i) = some i := by
  cases i <;> rfl

/-- An opcode that maps to a command is that command's (R63). -/
theorem opcodeOf_of_opcodeMap {op : U8} {i : Instr} (h : opcodeMap op = some i) : op = opcodeOf i := by
  unfold opcodeMap at h
  apply BitVec.eq_of_toNat_eq
  split at h <;> rename_i hn <;> simp only [Option.some.injEq, reduceCtorEq] at h <;> subst h <;> exact hn

/-- The latched pair of an encoded command decodes to it. -/
theorem current_accept_encode (i : Instr) (s : Machine.State) : Machine.current (Machine.accept (encode i) s) = .ok i := by
  cases i <;> rfl

end Sys2Proof
end

