-- ==== Sys2Proof/Laws/Memory.lean ====
section
/-! SUPPORT. INBUF: a read after a write, that a write leaves every other byte alone, that every operation keeps the
canonical form, and what the fetches make of readable bytes. -/

namespace Sys2Proof.Machine

/-! ### One byte -/

theorem lookup_insert_same (cs : List Host.Cell) (a : Nat) (b : U8) : lookupCell (insertCell cs a b) a = some b := by
  induction cs with
  | nil => simp [insertCell, lookupCell]
  | cons c rest ih =>
    obtain ⟨k, v⟩ := c
    unfold insertCell
    split
    · simp [lookupCell]
    · split
      · simp [lookupCell]
      · have : ¬ k = a := fun h => by omega
        simp [lookupCell, this, ih]

theorem lookup_insert_other (cs : List Host.Cell) (a a' : Nat) (b : U8) (h : a' ≠ a) :
    lookupCell (insertCell cs a b) a' = lookupCell cs a' := by
  induction cs with
  | nil => simp [insertCell, lookupCell, Ne.symm h]
  | cons c rest ih =>
    obtain ⟨k, v⟩ := c
    unfold insertCell
    split
    · simp [lookupCell, Ne.symm h]
    · split
      · rename_i _ hk
        subst hk
        simp [lookupCell, Ne.symm h]
      · by_cases hk : k = a' <;> simp [lookupCell, hk, ih]

theorem mem_insertMark (ms : List Nat) (a x : Nat) : x ∈ insertMark ms a ↔ x = a ∨ x ∈ ms := by
  induction ms with
  | nil => simp [insertMark]
  | cons k rest ih =>
    unfold insertMark
    split
    · simp
    · split
      · rename_i _ hk
        subst hk
        simp
      · simp only [List.mem_cons, ih]
        tauto

theorem marked_writeByte (m : Memory) (a x : Nat) (b : U8) :
    (m.writeByte a b).marked x = (decide (x = a) || m.marked x) := by
  rw [Bool.eq_iff_iff]
  simp [Memory.marked, Memory.writeByte, mem_insertMark]

theorem contents_writeByte_same (m : Memory) (a : Nat) (b : U8) : (m.writeByte a b).contents a = some b :=
  lookup_insert_same _ _ _

theorem contents_writeByte_other (m : Memory) (a a' : Nat) (b : U8) (h : a' ≠ a) :
    (m.writeByte a b).contents a' = m.contents a' := lookup_insert_other _ _ _ _ h

/-- A read after a write to the same address gives the byte written. -/
@[simp] theorem readByte_writeByte_same (m : Memory) (a : Nat) (b : U8) : (m.writeByte a b).readByte a = some b := by
  simp [Memory.readByte, marked_writeByte, contents_writeByte_same]

/-- A write leaves every other address alone. -/
theorem readByte_writeByte_other (m : Memory) (a a' : Nat) (b : U8) (h : a' ≠ a) :
    (m.writeByte a b).readByte a' = m.readByte a' := by
  simp [Memory.readByte, marked_writeByte, contents_writeByte_other _ _ _ _ h, h]

@[simp] theorem readByte_clearMarks (m : Memory) (a : Nat) : m.clearMarks.readByte a = none := rfl

@[simp] theorem contents_clearMarks (m : Memory) (a : Nat) : m.clearMarks.contents a = m.contents a := rfl

/-! ### The canonical form -/

theorem mem_keys_insertCell (cs : List Host.Cell) (a x : Nat) (b : U8) :
    x ∈ (insertCell cs a b).map Prod.fst ↔ x = a ∨ x ∈ cs.map Prod.fst := by
  induction cs with
  | nil => simp [insertCell]
  | cons c rest ih =>
    obtain ⟨k, v⟩ := c
    unfold insertCell
    split
    · simp
    · split
      · rename_i _ hk
        subst hk
        simp
      · simp only [List.map_cons, List.mem_cons, ih]
        tauto

theorem insertCell_keeps_rising (cs : List Host.Cell) (a : Nat) (b : U8)
    (h : (cs.map Prod.fst).Pairwise (· < ·)) : ((insertCell cs a b).map Prod.fst).Pairwise (· < ·) := by
  induction cs with
  | nil => simp [insertCell]
  | cons c rest ih =>
    obtain ⟨k, v⟩ := c
    simp only [List.map_cons, List.pairwise_cons] at h
    obtain ⟨hk, hr⟩ := h
    unfold insertCell
    split
    · rename_i hlt
      simp only [List.map_cons, List.pairwise_cons, List.mem_cons]
      refine ⟨?_, hk, hr⟩
      rintro x (rfl | hx)
      · exact hlt
      · exact Nat.lt_trans hlt (hk x hx)
    · split
      · rename_i _ hk'
        subst hk'
        rw [List.map_cons, List.pairwise_cons]
        exact ⟨hk, hr⟩
      · simp only [List.map_cons, List.pairwise_cons]
        refine ⟨fun x hx => ?_, ih hr⟩
        rcases (mem_keys_insertCell rest a x b).mp hx with rfl | hx
        · omega
        · exact hk x hx

theorem insertMark_keeps_rising (ms : List Nat) (a : Nat) (h : ms.Pairwise (· < ·)) :
    (insertMark ms a).Pairwise (· < ·) := by
  induction ms with
  | nil => simp [insertMark]
  | cons k rest ih =>
    rw [List.pairwise_cons] at h
    obtain ⟨hk, hr⟩ := h
    unfold insertMark
    split
    · rename_i hlt
      simp only [List.pairwise_cons, List.mem_cons]
      refine ⟨?_, hk, hr⟩
      rintro x (rfl | hx)
      · exact hlt
      · exact Nat.lt_trans hlt (hk x hx)
    · split
      · exact List.pairwise_cons.mpr ⟨hk, hr⟩
      · rw [List.pairwise_cons]
        refine ⟨fun x hx => ?_, ih hr⟩
        rcases (mem_insertMark rest a x).mp hx with rfl | hx
        · omega
        · exact hk x hx

/-- A byte write keeps the canonical form. -/
theorem writeByte_keeps_wf (m : Memory) (a : Nat) (b : U8) (h : m.wf) : (m.writeByte a b).wf := by
  obtain ⟨hc, hm, hsub⟩ := h
  refine ⟨insertCell_keeps_rising _ _ _ hc, insertMark_keeps_rising _ _ hm, fun x hx => ?_⟩
  rw [Memory.writeByte, mem_keys_insertCell]
  rcases (mem_insertMark _ _ _).mp hx with rfl | hx
  · exact .inl rfl
  · exact .inr (hsub x hx)

/-- Clearing the marks keeps the canonical form. -/
theorem clearMarks_keeps_wf (m : Memory) (h : m.wf) : m.clearMarks.wf :=
  ⟨h.1, .nil, fun x hx => by simp [Memory.clearMarks] at hx⟩

/-- The memory after reset has the canonical form. -/
theorem reset_memory_wf : State.reset.inbuf.wf := by decide

/-! ### Fetches -/

/-- A fetch of `k` bytes has a value exactly when each of its bytes has one. -/
theorem memRead_isSome_iff (m : Memory) (k addr : Nat) :
    (memRead m addr k).isSome ↔ ∀ i, i < k → (m.readByte (addr + i)).isSome := by
  induction k generalizing addr with
  | zero => simp [memRead]
  | succ k ih =>
    simp only [memRead]
    constructor
    · intro h i hi
      cases hb : m.readByte addr with
      | none => simp [hb] at h
      | some b =>
        cases hr : memRead m (addr + 1) k with
        | none => simp [hb, hr] at h
        | some r =>
          cases i with
          | zero => simp [hb]
          | succ i =>
            have := (ih (addr + 1)).mp (by simp [hr]) i (by omega)
            rwa [show addr + 1 + i = addr + (i + 1) by omega] at this
    · intro h
      obtain ⟨b, hb⟩ := Option.isSome_iff_exists.mp (h 0 (by omega))
      have hr : (memRead m (addr + 1) k).isSome := (ih (addr + 1)).mpr fun i hi => by
        have := h (i + 1) (by omega)
        rwa [show addr + (i + 1) = addr + 1 + i by omega] at this
      obtain ⟨r, hr⟩ := Option.isSome_iff_exists.mp hr
      have hb : m.readByte addr = some b := hb
      simp [hb, hr]

theorem append_toNat {w v : Nat} (x : BitVec w) (y : BitVec v) : (x ++ y).toNat = x.toNat * 2 ^ v + y.toNat := by
  rw [BitVec.toNat_append, Nat.shiftLeft_eq, Nat.mul_comm, ← Nat.two_pow_add_eq_or_of_lt y.isLt, Nat.mul_comm]

/-- A fetch is its low part and, above it, its high part (R41). -/
theorem memRead_add (m : Memory) (j k addr : Nat) :
    memRead m addr (j + k) =
      (memRead m addr j).bind fun lo => (memRead m (addr + j) k).map fun hi => lo + 256 ^ j * hi := by
  induction j generalizing addr with
  | zero => simp [memRead]
  | succ j ih =>
    have e : addr + 1 + j = addr + (j + 1) := by omega
    rw [show j + 1 + k = (j + k) + 1 by omega]
    simp only [memRead, ih, e]
    cases m.readByte addr with
    | none => rfl
    | some b =>
      cases memRead m (addr + 1) j with
      | none => rfl
      | some lo =>
        cases memRead m (addr + (j + 1)) k with
        | none => rfl
        | some hi =>
          simp only [Option.bind_eq_bind, Option.bind_some, Option.map_some, Option.pure_def, Option.some.injEq]
          rw [Nat.pow_succ, Nat.mul_add, Nat.mul_comm (256 ^ j) 256, Nat.mul_assoc, Nat.add_assoc]

theorem holds_at {m : Memory} {rd : Nat → U8} {n off k : Nat} (h : holds m rd n) (hk : off + k ≤ n) :
    holdsAt m rd off k := fun a _ ha => h a (by omega)

theorem holdsAt_mono {m : Memory} {rd : Nat → U8} {off k off' k' : Nat} (h : holdsAt m rd off k) (h₁ : off ≤ off')
    (h₂ : off' + k' ≤ off + k) : holdsAt m rd off' k' := fun a _ ha => h a (by omega) (by omega)

theorem memRead_one_of_holdsAt {m : Memory} {rd : Nat → U8} {off : Nat} (h : holdsAt m rd off 1) :
    memRead m off 1 = some (rd off).toNat := by
  simp [memRead, h off (by omega) (by omega)]

theorem memRead_four_of_holdsAt {m : Memory} {rd : Nat → U8} {off : Nat} (h : holdsAt m rd off 4) :
    memRead m off 4 = some (word32 rd off).toNat := by
  have e2 : off + 1 + 1 = off + 2 := rfl
  have e3 : off + 2 + 1 = off + 3 := rfl
  simp only [memRead, e2, e3, h off (by omega) (by omega), h (off + 1) (by omega) (by omega),
    h (off + 2) (by omega) (by omega), h (off + 3) (by omega) (by omega), Option.bind_eq_bind, Option.bind_some, Option.pure_def, Option.some.injEq, word32,
    append_toNat]
  omega

theorem memRead_eight_of_holdsAt {m : Memory} {rd : Nat → U8} {off : Nat} (h : holdsAt m rd off 8) :
    memRead m off 8 = some (word64 rd off).toNat := by
  rw [memRead_add m 4 4 off, memRead_four_of_holdsAt (holdsAt_mono h (by omega) (by omega)),
    memRead_four_of_holdsAt (holdsAt_mono h (by omega) (by omega))]
  simp only [Option.bind_some, Option.map_some, Option.some.injEq, word64, append_toNat]
  omega

theorem fetch8_of_holdsAt {m : Memory} {rd : Nat → U8} {off : Nat} (h : holdsAt m rd off 1) :
    fetch8 m off = some (rd off) := by
  simp [fetch8, memRead_one_of_holdsAt h]

theorem fetch32_of_holdsAt {m : Memory} {rd : Nat → U8} {off : Nat} (h : holdsAt m rd off 4) :
    fetch32 m off = some (word32 rd off) := by
  rw [fetch32, memRead_four_of_holdsAt h, Option.map_some, BitVec.ofNat_toNat, BitVec.setWidth_eq]

theorem fetch64_of_holdsAt {m : Memory} {rd : Nat → U8} {off : Nat} (h : holdsAt m rd off 8) :
    fetch64 m off = some (word64 rd off) := by
  rw [fetch64, memRead_eight_of_holdsAt h, Option.map_some, BitVec.ofNat_toNat, BitVec.setWidth_eq]

theorem weakHashMem_of_holdsAt {m : Memory} {rd : Nat → U8} {off : Nat} (a b : U64) (h : holdsAt m rd off 32) :
    weakHashMem m off a b =
      some (weakHash (word64 rd off) (word64 rd (off + 8)) (word64 rd (off + 16)) (word64 rd (off + 24)) a b) := by
  simp [weakHashMem, fetch64_of_holdsAt (holdsAt_mono h (Nat.le_refl off) (by omega : off + 8 ≤ off + 32)),
    fetch64_of_holdsAt (holdsAt_mono h (by omega : off ≤ off + 8) (by omega : off + 8 + 8 ≤ off + 32)),
    fetch64_of_holdsAt (holdsAt_mono h (by omega : off ≤ off + 16) (by omega : off + 16 + 8 ≤ off + 32)),
    fetch64_of_holdsAt (holdsAt_mono h (by omega : off ≤ off + 24) (by omega : off + 24 + 8 ≤ off + 32))]

theorem fetch8_of_holds {m : Memory} {rd : Nat → U8} {n off : Nat} (h : holds m rd n) (hk : off + 1 ≤ n) :
    fetch8 m off = some (rd off) := fetch8_of_holdsAt (holds_at h hk)

theorem fetch32_of_holds {m : Memory} {rd : Nat → U8} {n off : Nat} (h : holds m rd n) (hk : off + 4 ≤ n) :
    fetch32 m off = some (word32 rd off) := fetch32_of_holdsAt (holds_at h hk)

theorem fetch64_of_holds {m : Memory} {rd : Nat → U8} {n off : Nat} (h : holds m rd n) (hk : off + 8 ≤ n) :
    fetch64 m off = some (word64 rd off) := fetch64_of_holdsAt (holds_at h hk)

theorem weakHashMem_of_holds {m : Memory} {rd : Nat → U8} {n off : Nat} (a b : U64) (h : holds m rd n)
    (hk : off + 32 ≤ n) :
    weakHashMem m off a b =
      some (weakHash (word64 rd off) (word64 rd (off + 8)) (word64 rd (off + 16)) (word64 rd (off + 24)) a b) :=
  weakHashMem_of_holdsAt a b (holds_at h hk)

/-- Two memories that read alike on the bytes of a fetch give the same value. -/
theorem memRead_congr (m m' : Memory) (k addr : Nat) (h : ∀ i, i < k → m.readByte (addr + i) = m'.readByte (addr + i)) :
    memRead m addr k = memRead m' addr k := by
  induction k generalizing addr with
  | zero => rfl
  | succ k ih =>
    have h0 := h 0 (by omega)
    rw [Nat.add_zero] at h0
    have hr := ih (addr + 1) fun i hi => by
      have := h (i + 1) (by omega)
      rwa [show addr + (i + 1) = addr + 1 + i by omega] at this
    simp only [memRead, h0, hr]

/-- The bytes that readable INBUF holds. -/
theorem holds_of_written {m : Memory} {n : Nat} (h : written m n) : ∃ rd, holds m rd n := by
  refine ⟨fun a => (m.readByte a).getD 0, fun a ha => ?_⟩
  cases hb : m.readByte a with
  | none => exact absurd hb (h a ha)
  | some b => simp [hb]

theorem written_of_holds {m : Memory} {rd : Nat → U8} {n : Nat} (h : holds m rd n) : written m n := fun a ha => by
  rw [h a ha]
  simp

end Sys2Proof.Machine
end

