-- ==== Sys2Proof/Laws/Primitives.lean ====
section
/-! SUPPORT. The primitive functions in library terms: the rotations are `BitVec.rotateRight`, and `mur` begins with
`premix32`. -/

namespace Sys2Proof.Machine

theorem rotate32_eq_rotateRight (v : U32) (k : Fin 32) : rotate32 v k = v.rotateRight k.val := by
  unfold rotate32 BitVec.rotateRight BitVec.rotateRightAux
  rw [Nat.mod_eq_of_lt k.isLt]
  split
  · rename_i h
    simp [h]
  · rfl

theorem rotate64_eq_rotateRight (v : U64) (k : Fin 64) : rotate64 v k = v.rotateRight k.val := by
  unfold rotate64 BitVec.rotateRight BitVec.rotateRightAux
  rw [Nat.mod_eq_of_lt k.isLt]
  split
  · rename_i h
    simp [h]
  · rfl

/-- On its domain `rotateByAtLeast1` is `rotate64` (40_primitives.md R72). -/
theorem rotateByAtLeast1_eq_rotate64 (v : U64) (k : Nat) (h : 1 ≤ k ∧ k ≤ 63) :
    rotateByAtLeast1 v k h = rotate64 v ⟨k, by omega⟩ := by
  have : k ≠ 0 := by omega
  simp [rotateByAtLeast1, rotate64, this]

theorem rotateByAtLeast1_eq_rotateRight (v : U64) (k : Nat) (h : 1 ≤ k ∧ k ≤ 63) :
    rotateByAtLeast1 v k h = v.rotateRight k := by
  rw [rotateByAtLeast1_eq_rotate64, rotate64_eq_rotateRight]

/-- The byte reversal as a concatenation of the four bytes (40_primitives.md R82). -/
theorem bswap32_eq_append (v : U32) :
    bswap32 v = v.extractLsb' 0 8 ++ v.extractLsb' 8 8 ++ v.extractLsb' 16 8 ++ v.extractLsb' 24 8 := by
  apply BitVec.eq_of_getLsbD_eq
  intro i hi
  unfold bswap32
  interval_cases i <;>
    simp only [BitVec.getLsbD_append, BitVec.getLsbD_or, BitVec.getLsbD_shiftLeft, BitVec.getLsbD_setWidth,
      BitVec.getLsbD_extractLsb'] <;>
    simp

/-- `premix32` "equals the first three lines of `mur`" (41_hash32.md R101). -/
theorem mur_eq_mix5_premix32 (p : Params) (a h : U32) : mur p a h = mix5 (rotate32 (h ^^^ premix32 p a) 19) := rfl

end Sys2Proof.Machine
end

