-- ==== Sys2Proof/Laws/Exec.lean ====
section
/-! SUPPORT. Everything a command's step can do, said once: `exec_moves` lists the nine shapes of a next state with their
guards. Frames and invariants are case splits over it. -/

namespace Sys2Proof.Machine

/-! ### The shared operations -/

theorem readOrFault_next {α : Type} {read : Option α} {k : α → State} {t : State} :
    readOrFault read k = .next t ↔ ∃ a, read = some a ∧ k a = t := by
  cases read <;> simp [readOrFault]

theorem readOrFault_fault {α : Type} {read : Option α} {k : α → State} :
    readOrFault read k = .fault .unwrittenInbuf ↔ read = none := by
  cases read <;> simp [readOrFault]

@[simp] theorem readOrFault_some {α : Type} (a : α) (k : α → State) : readOrFault (some a) k = .next (k a) := rfl

@[simp] theorem readOrFault_none {α : Type} (k : α → State) :
    readOrFault (none : Option α) k = .fault .unwrittenInbuf := rfl

theorem lenTooBig_iff (s : State) : lenTooBig s = true ↔ s.params.maxlen.toNat < s.latched.len.toNat := by
  simp [lenTooBig]

theorem checkLen_of_big {s : State} (k : Result) (h : s.params.maxlen.toNat < s.latched.len.toNat) :
    checkLen s k = .next (raiseError .len s) := by
  simp [checkLen, lenTooBig, h]

theorem checkLen_of_fits {s : State} (k : Result) (h : s.latched.len.toNat ≤ s.params.maxlen.toNat) :
    checkLen s k = k := by
  simp [checkLen, lenTooBig, Nat.not_lt.mpr h]

theorem checkLen_next {s t : State} {k : Result} (h : checkLen s k = .next t) :
    (s.params.maxlen.toNat < s.latched.len.toNat ∧ t = raiseError .len s) ∨
      (s.latched.len.toNat ≤ s.params.maxlen.toNat ∧ k = .next t) := by
  by_cases hl : s.params.maxlen.toNat < s.latched.len.toNat
  · rw [checkLen_of_big k hl] at h
    cases h
    exact .inl ⟨hl, rfl⟩
  · rw [checkLen_of_fits k (by omega)] at h
    exact .inr ⟨by omega, h⟩

theorem checkOperand_of_past {s : State} {off : U64} {k : Nat} (c : Result)
    (h : s.latched.len.toNat < off.toNat + k) : checkOperand (pastBound off k s) s c = .next (raiseError .operand s) := by
  simp [checkOperand, pastBound, h]

theorem checkOperand_of_inside {s : State} {off : U64} {k : Nat} (c : Result)
    (h : off.toNat + k ≤ s.latched.len.toNat) : checkOperand (pastBound off k s) s c = c := by
  simp [checkOperand, pastBound, Nat.not_lt.mpr h]

theorem checkOperand_next {s t : State} {bad : Bool} {k : Result} (h : checkOperand bad s k = .next t) :
    t = raiseError .operand s ∨ k = .next t := by
  unfold checkOperand at h
  split at h
  · cases h
    exact .inl rfl
  · exact .inr h

/-! ### What one step of a command can do -/

/-- The next states of a command's step, by shape, each with its guard. -/
inductive Move (i : Instr) (s : State) : State → Prop where
  | lenError (h : s.params.maxlen.toNat < s.latched.len.toNat) : Move i s (raiseError .len s)
  | operandError : Move i s (raiseError .operand s)
  | done (r : U64) : Move i s (complete r s)
  | donePair (r : U128) (h : i = .weakhash ∨ i = .weakhashMem) : Move i s (completePair r s)
  | start32 (w : Work32) (hi : i = .hash32) (hp : s.phase = .setup ∨ s.phase = .idle) (hn : 25 ≤ s.latched.len.toNat)
      (hm : s.latched.len.toNat ≤ s.params.maxlen.toNat)
      (hw : hash32Init s.params s.inbuf s.latched.len = some w) :
      Move i s (startLoop (BitVec.ofNat 64 (chunks32 s.latched.len)) { s with work32 := w })
  | loop32 (w : Work32) (hi : i = .hash32) (hp : s.phase = .loop)
      (hw : hash32Chunk s.params s.inbuf s.off.toNat s.work32 = some w) :
      Move i s (advanceLoop 20 { s with work32 := w })
  | final32 (r : U64) (hi : i = .hash32) (hp : s.phase = .final) : Move i s (complete r (retire32 s))
  | start64 (w : Work64) (hi : isHash64 i = true) (hp : s.phase = .setup ∨ s.phase = .idle)
      (hn : 65 ≤ s.latched.len.toNat) (hm : s.latched.len.toNat ≤ s.params.maxlen.toNat)
      (hw : hash64Init s.params s.inbuf s.latched.len = some w) :
      Move i s (startLoop (BitVec.ofNat 64 (chunks64 s.latched.len)) { s with work64 := w })
  | loop64 (w : Work64) (hi : isHash64 i = true) (hp : s.phase = .loop)
      (hw : hash64Chunk s.params s.inbuf s.off.toNat s.work64 = some w) :
      Move i s (advanceLoop 64 { s with work64 := w })
  | final64 (r : U64) (hi : isHash64 i = true) (hp : s.phase = .final) : Move i s (complete r (retire64 s))

theorem hash32Setup_moves {s t : State} (hp : s.phase = .setup ∨ s.phase = .idle) (h : hash32Setup s = .next t) :
    Move .hash32 s t := by
  rcases checkLen_next h with ⟨hl, rfl⟩ | ⟨hm, h⟩
  · exact .lenError hl
  · split at h
    · obtain ⟨d, -, rfl⟩ := readOrFault_next.mp h
      exact .done _
    · obtain ⟨w, hw, rfl⟩ := readOrFault_next.mp h
      exact .start32 w rfl hp (by omega) hm hw

theorem execHash32_moves {s t : State} (h : execHash32 s = .next t) : Move .hash32 s t := by
  unfold execHash32 at h
  split at h <;> rename_i hp
  · exact hash32Setup_moves (.inr hp) h
  · exact hash32Setup_moves (.inl hp) h
  · obtain ⟨w, hw, rfl⟩ := readOrFault_next.mp h
    exact .loop32 w rfl hp hw
  · cases h
    exact .final32 _ rfl hp

theorem hash64Setup_moves {i : Instr} (hi : isHash64 i = true) {post : U64 → U64} {s t : State}
    (hp : s.phase = .setup ∨ s.phase = .idle) (h : hash64Setup post s = .next t) : Move i s t := by
  rcases checkLen_next h with ⟨hl, rfl⟩ | ⟨hm, h⟩
  · exact .lenError hl
  · split at h
    · obtain ⟨d, -, rfl⟩ := readOrFault_next.mp h
      exact .done _
    · obtain ⟨w, hw, rfl⟩ := readOrFault_next.mp h
      exact .start64 w hi hp (by omega) hm hw

theorem hash64Step_moves {i : Instr} (hi : isHash64 i = true) {post : U64 → U64} {s t : State}
    (h : hash64Step post s = .next t) : Move i s t := by
  unfold hash64Step at h
  split at h <;> rename_i hp
  · exact hash64Setup_moves hi (.inr hp) h
  · exact hash64Setup_moves hi (.inl hp) h
  · obtain ⟨w, hw, rfl⟩ := readOrFault_next.mp h
    exact .loop64 w hi hp hw
  · cases h
    exact .final64 _ hi hp

/-- A memory primitive: ERR_LEN, ERR_OPERAND, or its completion. -/
theorem memoryPrimitive_moves {i : Instr} {s t : State} {α : Type} {bad : Bool} {read : Option α} {k : α → State}
    (hk : ∀ a, Move i s (k a)) (h : checkLen s (checkOperand bad s (readOrFault read k)) = .next t) : Move i s t := by
  rcases checkLen_next h with ⟨hl, rfl⟩ | ⟨-, h⟩
  · exact .lenError hl
  · rcases checkOperand_next h with rfl | h
    · exact .operandError
    · obtain ⟨a, -, rfl⟩ := readOrFault_next.mp h
      exact hk a

/-- Everything a command's step can answer. -/
theorem exec_moves {i : Instr} {s t : State} (h : exec i s = .next t) : Move i s t := by
  cases i with
  | hash32 => exact execHash32_moves h
  | hash64 => exact hash64Step_moves rfl h
  | hash64Seed => exact hash64Step_moves rfl h
  | hash64Seeds => exact hash64Step_moves rfl h
  | rotr32 =>
    simp only [exec, execRotr32] at h
    split at h <;> cases h
    · exact .done _
    · exact .operandError
  | rotr64 =>
    simp only [exec, execRotr64] at h
    split at h <;> cases h
    · exact .done _
    · exact .operandError
  | rotr64Al1 =>
    simp only [exec, execRotr64Al1] at h
    split at h <;> cases h
    · exact .done _
    · exact .operandError
  | fetch32 => exact memoryPrimitive_moves (fun v => .done _) h
  | fetch64 => exact memoryPrimitive_moves (fun v => .done _) h
  | fetch8 => exact memoryPrimitive_moves (fun v => .done _) h
  | weakhashMem => exact memoryPrimitive_moves (fun r => .donePair r (.inr rfl)) h
  | fmix => cases h; exact .done _
  | mur => cases h; exact .done _
  | shiftmix => cases h; exact .done _
  | hash128to64 => cases h; exact .done _
  | weakhash => cases h; exact .donePair _ (.inl rfl)
  | bswap32 => cases h; exact .done _

/-! ### Fields a command does not look at -/

@[simp] theorem mapNext_next (f : State → State) (s : State) : mapNext f (.next s) = .next (f s) := rfl

theorem mapNext_readOrFault {α : Type} (f : State → State) (read : Option α) (k : α → State) :
    mapNext f (readOrFault read k) = readOrFault read fun a => f (k a) := by
  cases read <;> rfl

theorem mapNext_checkLen {f : State → State} {s s' : State} (k : Result) (hl : lenTooBig s' = lenTooBig s)
    (he : f (raiseError .len s) = raiseError .len s') : mapNext f (checkLen s k) = checkLen s' (mapNext f k) := by
  simp only [checkLen, hl]
  split
  · rw [mapNext_next, he]
  · rfl

theorem mapNext_checkOperand {f : State → State} {s s' : State} (bad : Bool) (k : Result)
    (he : f (raiseError .operand s) = raiseError .operand s') :
    mapNext f (checkOperand bad s k) = checkOperand bad s' (mapNext f k) := by
  simp only [checkOperand]
  split
  · rw [mapNext_next, he]
  · rfl

theorem mapNext_ite {c : Prop} [Decidable c] (f : State → State) (x y : Result) :
    mapNext f (if c then x else y) = if c then mapNext f x else mapNext f y := by
  split <;> rfl

theorem mapNext_dite {c : Prop} [Decidable c] (f : State → State) (x : c → Result) (y : ¬c → Result) :
    mapNext f (if h : c then x h else y h) = if h : c then mapNext f (x h) else mapNext f (y h) := by
  split <;> rfl

/-- The operand registers replaced: what a host write to one of them does to the state. -/
def State.withRegs (r : OperandRegs) (s : State) : State := { s with regs := r }

theorem hash32Setup_withRegs (r : OperandRegs) (s : State) :
    hash32Setup (s.withRegs r) = mapNext (State.withRegs r) (hash32Setup s) := by
  unfold hash32Setup
  rw [mapNext_checkLen (s := s) (s' := s.withRegs r) _ rfl rfl, mapNext_ite, mapNext_readOrFault, mapNext_readOrFault]
  rfl

theorem hash64Setup_withRegs (post : U64 → U64) (r : OperandRegs) (s : State) :
    hash64Setup post (s.withRegs r) = mapNext (State.withRegs r) (hash64Setup post s) := by
  unfold hash64Setup
  rw [mapNext_checkLen (s := s) (s' := s.withRegs r) _ rfl rfl, mapNext_ite, mapNext_readOrFault, mapNext_readOrFault]
  rfl

theorem hash64Step_withRegs (post : U64 → U64) (r : OperandRegs) (s : State) :
    hash64Step post (s.withRegs r) = mapNext (State.withRegs r) (hash64Step post s) := by
  have hp : (s.withRegs r).phase = s.phase := rfl
  unfold hash64Step
  rw [hp]
  split
  · exact hash64Setup_withRegs post r s
  · exact hash64Setup_withRegs post r s
  · unfold hash64Loop
    rw [mapNext_readOrFault]
    rfl
  · rfl

theorem execHash32_withRegs (r : OperandRegs) (s : State) :
    execHash32 (s.withRegs r) = mapNext (State.withRegs r) (execHash32 s) := by
  have hp : (s.withRegs r).phase = s.phase := rfl
  unfold execHash32
  rw [hp]
  split
  · exact hash32Setup_withRegs r s
  · exact hash32Setup_withRegs r s
  · unfold hash32Loop
    rw [mapNext_readOrFault]
    rfl
  · rfl

/-- A memory primitive does not look at the operand registers. -/
theorem memoryPrimitive_withRegs {α : Type} (r : OperandRegs) (s : State) (bad : Bool) (read : Option α)
    (k k' : α → State) (hk : ∀ a, State.withRegs r (k a) = k' a) :
    checkLen (s.withRegs r) (checkOperand bad (s.withRegs r) (readOrFault read k')) =
      mapNext (State.withRegs r) (checkLen s (checkOperand bad s (readOrFault read k))) := by
  rw [mapNext_checkLen (s := s) (s' := s.withRegs r) _ rfl rfl,
    mapNext_checkOperand (s := s) (s' := s.withRegs r) _ _ rfl, mapNext_readOrFault]
  simp only [hk]

/-- A command reads its latched copies, never the host's registers (10_state.md R28): with other registers its step is the
same, and they stay. -/
theorem exec_withRegs (i : Instr) (s : State) (r : OperandRegs) :
    exec i (s.withRegs r) = mapNext (State.withRegs r) (exec i s) := by
  cases i with
  | hash32 => exact execHash32_withRegs r s
  | hash64 => exact hash64Step_withRegs _ r s
  | hash64Seed => exact hash64Step_withRegs _ r s
  | hash64Seeds => exact hash64Step_withRegs _ r s
  | rotr32 => simp only [exec, execRotr32, mapNext_dite]; rfl
  | rotr64 => simp only [exec, execRotr64, mapNext_dite]; rfl
  | rotr64Al1 => simp only [exec, execRotr64Al1, mapNext_dite]; rfl
  | fetch32 => exact memoryPrimitive_withRegs r s _ _ _ _ fun _ => rfl
  | fetch64 => exact memoryPrimitive_withRegs r s _ _ _ _ fun _ => rfl
  | fetch8 => exact memoryPrimitive_withRegs r s _ _ _ _ fun _ => rfl
  | weakhashMem => exact memoryPrimitive_withRegs r s _ _ _ _ fun _ => rfl
  | fmix => rfl
  | mur => rfl
  | shiftmix => rfl
  | hash128to64 => rfl
  | weakhash => rfl
  | bswap32 => rfl

/-- No command is refused. -/
theorem exec_not_refused (i : Instr) (s : State) (r : Refusal) : exec i s ≠ .refused r := by
  cases i <;>
    simp only [exec, execHash32, execHash64, execHash64Seed, execHash64Seeds, hash64Step, hash32Setup, hash64Setup,
      hash32Loop, hash64Loop, hash32Final, hash64Final, execRotr32, execRotr64, execRotr64Al1, execFetch32, execFetch64,
      execFmix, execMur, execShiftmix, execHash128to64, execWeakhash, execWeakhashMem, execFetch8, execBswap32,
      checkLen, checkOperand, readOrFault] <;>
    intro h <;> (repeat' split at h) <;> cases h

end Sys2Proof.Machine
end

