-- ==== Sys2Proof/Laws/Flags.lean ====
section
/-! SUPPORT. The bits of STATUS and IRQEN as the host reads them. -/

namespace Sys2Proof.Machine

/-- Bit `k` of STATUS (10_state.md R23). -/
theorem statusWord_getLsbD (s : State) (k : Nat) :
    (statusWord s).getLsbD k =
      if k = 0 then s.busy
      else if k = 1 then s.status.done
      else if k = 2 then s.status.err
      else if k = 3 then s.status.wdrop
      else if k < 8 then false
      else s.status.errcode.getLsbD (k - 8) := by
  unfold statusWord
  rcases Nat.lt_or_ge k 8 with h | h
  · have : k = 0 ∨ k = 1 ∨ k = 2 ∨ k = 3 ∨ k = 4 ∨ k = 5 ∨ k = 6 ∨ k = 7 := by omega
    rcases this with rfl | rfl | rfl | rfl | rfl | rfl | rfl | rfl <;>
      simp only [BitVec.getLsbD_append, BitVec.getLsbD_ofBool] <;> simp
  · have h0 : ¬k < 1 := by omega
    have h1 : ¬k - 1 < 1 := by omega
    have h2 : ¬k - 1 - 1 < 1 := by omega
    have h3 : ¬k - 1 - 1 - 1 < 1 := by omega
    have h4 : ¬k - 1 - 1 - 1 - 1 < 4 := by omega
    have e : k - 1 - 1 - 1 - 1 - 4 = k - 8 := by omega
    simp only [BitVec.getLsbD_append, h0, h1, h2, h3, h4, e, if_false]
    have n0 : ¬k = 0 := by omega
    have n1 : ¬k = 1 := by omega
    have n2 : ¬k = 2 := by omega
    have n3 : ¬k = 3 := by omega
    have n8 : ¬k < 8 := by omega
    simp only [n0, n1, n2, n3, n8, if_false]
    by_cases hk : k - 8 < 8
    · simp [hk]
    · simp [hk, BitVec.getLsbD_of_ge s.status.errcode (k - 8) (by omega)]

/-- Bit `k` of IRQEN (R24). -/
theorem irqenWord_getLsbD (s : State) (k : Nat) : (irqenWord s).getLsbD k = (decide (k = 0) && s.doneIe) := by
  unfold irqenWord
  rw [BitVec.getLsbD_setWidth, BitVec.getLsbD_ofBool]
  by_cases h : k = 0 <;> simp [h]

end Sys2Proof.Machine
end

