-- ==== Sys2Proof/Laws/PerInstr.lean ====
section
/-! SUPPORT. Facts about each command as syntax, one lemma for each constructor. -/

namespace Sys2Proof.Laws.Encoding

/-- The command is well formed, its word passes both checks of a command word (30_encoding.md R64, R65), its OPCODE field is
the opcode it was given, and the host's view of the decoder reads the command back from its 64-bit word. -/
def Statement (i : Instr) : Prop :=
  i.wellFormed = true ∧ reservedClear (encode i) = true ∧ opcodeLegal (opcodeField (encode i)) = true ∧
    opcodeField (encode i) = opcodeOf i ∧ decodeTableWord 64 (encode i).toNat = some i

theorem hash32 : Statement .hash32 := by unfold Statement; decide

theorem hash64 : Statement .hash64 := by unfold Statement; decide

theorem hash64Seed : Statement .hash64Seed := by unfold Statement; decide

theorem hash64Seeds : Statement .hash64Seeds := by unfold Statement; decide

theorem rotr32 : Statement .rotr32 := by unfold Statement; decide

theorem rotr64 : Statement .rotr64 := by unfold Statement; decide

theorem rotr64Al1 : Statement .rotr64Al1 := by unfold Statement; decide

theorem fetch32 : Statement .fetch32 := by unfold Statement; decide

theorem fetch64 : Statement .fetch64 := by unfold Statement; decide

theorem fmix : Statement .fmix := by unfold Statement; decide

theorem mur : Statement .mur := by unfold Statement; decide

theorem shiftmix : Statement .shiftmix := by unfold Statement; decide

theorem hash128to64 : Statement .hash128to64 := by unfold Statement; decide

theorem weakhash : Statement .weakhash := by unfold Statement; decide

theorem weakhashMem : Statement .weakhashMem := by unfold Statement; decide

theorem fetch8 : Statement .fetch8 := by unfold Statement; decide

theorem bswap32 : Statement .bswap32 := by unfold Statement; decide

end Sys2Proof.Laws.Encoding
end

