-- ==== Sys2Proof/Laws/Step.lean ====
section
/-! SUPPORT. Everything a step of the machine can do, said once: the engine's step, the host's accesses, and the cases of
`step`. -/

namespace Sys2Proof.Machine

/-! ### The engine -/

theorem engineStep_of_busy {s : State} {i : Instr} (hb : s.busy = true) (hc : current s = .ok i) :
    engineStep s = exec i s := by
  have hp := (busy_iff s).mp hb
  unfold engineStep
  split
  · exact absurd (by assumption) hp
  · simp [hc]

theorem engineStep_of_idle {s : State} (hp : s.phase = .idle) : engineStep s = .next s := by
  simp [engineStep, hp]

/-- What an engine step can answer: nothing while idle, the decoder's error, or a command's step. -/
theorem engineStep_cases {s t : State} (h : engineStep s = .next t) :
    (s.phase = .idle ∧ t = s) ∨
    (s.phase ≠ .idle ∧ ∃ e, (e = .reserved ∨ e = .opcode) ∧ current s = .error e ∧ t = raiseError e s) ∨
    (s.phase ≠ .idle ∧ ∃ i, current s = .ok i ∧ Move i s t) := by
  unfold engineStep at h
  split at h
  · cases h
    exact .inl ⟨by assumption, rfl⟩
  · rename_i hp
    refine .inr ?_
    cases hc : current s with
    | ok i =>
      rw [hc] at h
      exact .inr ⟨hp, i, rfl, exec_moves h⟩
    | error e =>
      rw [hc] at h
      cases h
      refine .inl ⟨hp, e, ?_, rfl, rfl⟩
      unfold current decodeLatched at hc
      split at hc
      · cases hc
        exact .inl rfl
      · split at hc <;> cases hc
        exact .inr rfl

/-! ### The host -/

/-- What a register write can answer: a change of one register, of STATUS, of IRQEN, an acceptance, or nothing. -/
inductive RegMove (s : State) : State → Prop where
  | same : RegMove s s
  | drop (hb : s.busy = true) : RegMove s (dropWrite s)
  | accept (word : U64) (hb : s.busy = false) : RegMove s (accept word s)
  | status (v : U64) : RegMove s { s with status := s.status.hostWrite v }
  | irqen (b : Bool) : RegMove s { s with doneIe := b }
  | operand (r : OperandRegs) : RegMove s { s with regs := r }

theorem writeReg_moves (r : HostReg) (v : U64) (s : State) : RegMove s (writeReg r v s) := by
  cases r with
  | cmd =>
    simp only [writeReg, writeCmd]
    split
    · exact .drop (by assumption)
    · exact .accept v (by simpa using ‹¬s.busy = true›)
  | status => exact .status v
  | irqen => exact .irqen _
  | len => exact .operand _
  | seed0 => exact .operand _
  | seed1 => exact .operand _
  | result => exact .same
  | resultHi => exact .same
  | opa => exact .operand _
  | opb => exact .operand _
  | opc => exact .operand _
  | opd => exact .operand _
  | ope => exact .operand _
  | opf => exact .operand _
  | maxlen => exact .same

/-- The window's map is one to one (10_state.md R18). -/
theorem regAt_eq_some_iff (off : Nat) (r : HostReg) : regAt off = some r ↔ off = offsetOf r := by
  constructor
  · intro h
    unfold regAt at h
    split at h <;> cases h <;> rfl
  · rintro rfl
    cases r <;> rfl

theorem regWriteAt_moves (off : Nat) (v : U64) (s : State) : RegMove s (regWriteAt off v s) := by
  unfold regWriteAt
  split
  · exact writeReg_moves _ _ _
  · exact .same

/-- What a host access can answer. -/
inductive HostMove (s : State) : HostTxn → State → Prop where
  | regWrite (off : Nat) (v : U64) (hf : inInterface off 8 = true) :
      HostMove s (.regWrite off 8 v) (regWriteAt off v s)
  | regRead (off : Nat) (hf : inInterface off 8 = true) :
      HostMove s (.regRead off 8) { s with hostData := regReadAt off s }
  | bufDrop (a : Nat) (b : U8) (h : s.busy = true ∨ s.params.maxlen.toNat ≤ a) :
      HostMove s (.bufWrite a b) (dropWrite s)
  | bufWrite (a : Nat) (b : U8) (hb : s.busy = false) (ha : a < s.params.maxlen.toNat) :
      HostMove s (.bufWrite a b) { s with inbuf := s.inbuf.writeByte a b }
  | bufRead (a : Nat) (v : U64) (k : Nat) : HostMove s (.bufRead a) { s with hostData := v, draws := k }

theorem inInterface_width {off width : Nat} (h : inInterface off width = true) : width = 8 := by
  simp only [inInterface, Bool.and_eq_true, beq_iff_eq] at h
  exact h.1.1

theorem inInterface_iff (off width : Nat) :
    inInterface off width = true ↔ width = 8 ∧ off % 8 = 0 ∧ off < 256 := by
  simp only [inInterface, Bool.and_eq_true, beq_iff_eq, decide_eq_true_eq]
  tauto

theorem hostAccess_moves {x : HostTxn} {s t : State} (h : hostAccess x s = .next t) : HostMove s x t := by
  cases x with
  | regWrite off width v =>
    simp only [hostAccess] at h
    split at h <;> cases h
    rename_i hf
    have := inInterface_width hf
    subst this
    exact .regWrite off v hf
  | regRead off width =>
    simp only [hostAccess] at h
    split at h <;> cases h
    rename_i hf
    have := inInterface_width hf
    subst this
    exact .regRead off hf
  | bufWrite a b =>
    simp only [hostAccess, bufWrite] at h
    split at h <;> cases h
    · rename_i hd
      exact .bufDrop a b (by simpa using hd)
    · rename_i hd
      simp only [Bool.or_eq_true, decide_eq_true_eq, not_or] at hd
      exact .bufWrite a b (by simpa using hd.1) (by omega)
  | bufRead a =>
    simp only [hostAccess, bufRead] at h
    split at h
    · cases h
      exact .bufRead a 0 s.draws
    · split at h <;> cases h
      · exact .bufRead a _ s.draws
      · exact .bufRead a _ _

/-! ### The step -/

/-- What a step of the machine can answer. -/
theorem step_cases {s t : State} (h : step s = .next t) :
    (s.events = [] ∧ engineStep s = .next t) ∨
    (∃ rest, s.events = .engine :: rest ∧ engineStep { s with events := rest } = .next t) ∨
    (∃ x rest, s.events = .host x :: rest ∧ HostMove { s with events := rest } x t) ∨
    (∃ rest, s.events = .reset :: rest ∧ t = applyReset { s with events := rest }) ∨
    (∃ rest, s.events = .wait :: rest ∧ t = pollDone { s with events := rest }) := by
  unfold step at h
  split at h <;> rename_i he
  · exact .inl ⟨he, h⟩
  · exact .inr (.inl ⟨_, he, h⟩)
  · exact .inr (.inr (.inl ⟨_, _, he, hostAccess_moves h⟩))
  · cases h
    exact .inr (.inr (.inr (.inl ⟨_, he, rfl⟩)))
  · cases h
    exact .inr (.inr (.inr (.inr ⟨_, he, rfl⟩)))

@[simp] theorem step_nil {s : State} (h : s.events = []) : step s = engineStep s := by
  simp [step, h]

@[simp] theorem step_engine {s : State} {rest : List Event} (h : s.events = .engine :: rest) :
    step s = engineStep { s with events := rest } := by
  simp [step, h]

@[simp] theorem step_host {s : State} {x : HostTxn} {rest : List Event} (h : s.events = .host x :: rest) :
    step s = hostAccess x { s with events := rest } := by
  simp [step, h]

@[simp] theorem step_reset {s : State} {rest : List Event} (h : s.events = .reset :: rest) :
    step s = .next (applyReset { s with events := rest }) := by
  simp [step, h]

@[simp] theorem step_wait {s : State} {rest : List Event} (h : s.events = .wait :: rest) :
    step s = .next (pollDone { s with events := rest }) := by
  simp [step, h]

/-! ### Runs -/

@[simp] theorem run_zero (s : State) : run 0 s = .next s := rfl

theorem run_succ_of_next {k : Nat} {s t : State} (h : step s = .next t) : run (k + 1) s = run k t := by
  simp [run, h]

@[simp] theorem run_one (s : State) : run 1 s = step s := by
  cases h : step s <;> simp [run, h]

/-- A run of `j + k` steps whose first `j` lead to `t` goes on from `t`. -/
theorem run_add {j k : Nat} {s t : State} (h : run j s = .next t) : run (j + k) s = run k t := by
  induction j generalizing s with
  | zero =>
    cases h
    rw [Nat.zero_add]
  | succ j ih =>
    rw [show j + 1 + k = (j + k) + 1 by omega]
    cases hs : step s with
    | next u =>
      rw [run_succ_of_next hs] at h ⊢
      exact ih h
    | fault r => simp [run, hs] at h
    | refused r => simp [run, hs] at h

end Sys2Proof.Machine
end

