-- ==== Sys2Proof/Tests/Slice0.lean ====
section
/-! SUPPORT. The model's own tests, and a witness for the hypotheses of each statement. Every expected value is one of
spec/95_test_vectors.md (the section is named), of a rule's own example, or written out from the rule named. -/

namespace Sys2Proof.Tests

open Sys2Proof Sys2Proof.Machine

/-! ### Helpers -/

/-- INBUF holding these bytes from address 0 on, all marked written. -/
def bufferOf (bs : List U8) : Memory := ⟨(List.range bs.length).zip bs, List.range bs.length⟩

/-- `pattern(n)`: byte i is i mod 256 (95_test_vectors.md). -/
def pattern (n : Nat) : Memory := bufferOf ((List.range n).map (BitVec.ofNat 8))

/-- The bytes of `pattern`. -/
def patternByte (a : Nat) : U8 := BitVec.ofNat 8 a

/-- "hello". -/
def hello : Memory := bufferOf [0x68, 0x65, 0x6c, 0x6c, 0x6f]

/-- The operand registers with LEN = n and OPA..OPF given, seeds 0. -/
def operands (n a b c d e f : U64) : OperandRegs := ⟨n, 0, 0, a, b, c, d, e, f⟩

/-- A command just accepted, with these operands and this input: its SETUP step is next. -/
def accepted (i : Instr) (r : OperandRegs) (m : Memory) : State :=
  accept (encode i) { State.reset with regs := r, inbuf := m }

/-- A digest command just accepted on pattern(n), with these seeds. -/
def digest (i : Instr) (n : Nat) (seed0 seed1 : U64 := 0) : State :=
  accepted i { OperandRegs.zero with len := BitVec.ofNat 64 n, seed0 := seed0, seed1 := seed1 } (pattern n)

/-- RESULT after a step. -/
def resultOf (r : Result) : Option U64 := (nextOf r).map State.result

/-- RESULT and RESULT_HI after a step. -/
def resultsOf (r : Result) : Option (U64 × U64) := (nextOf r).map fun s => (s.result, s.resultHi)

/-- STATUS after a step, as the host reads it. -/
def statusOf (r : Result) : Option U64 := (nextOf r).map statusWord

/-- The result of one step of a command on given operands and input. -/
def answer (i : Instr) (r : OperandRegs) (m : Memory) : Option U64 := resultOf (step (accepted i r m))

/-- The same for STATUS. -/
def answerStatus (i : Instr) (r : OperandRegs) (m : Memory) : Option U64 := statusOf (step (accepted i r m))

/-! ### Well-formedness smoke: each check refuses an ill-formed word -/

theorem test_reserved_bit_8_ill_formed : reservedClear 0x101 = false ∧ wordWellFormed 0x101 = false := by decide

theorem test_reserved_bit_63_ill_formed :
    reservedClear 0x8000000000000001 = false ∧ wordWellFormed 0x8000000000000001 = false := by decide

theorem test_opcode_00_ill_formed : opcodeLegal 0x00 = false ∧ wordWellFormed 0x00 = false := by decide

theorem test_opcodes_05_to_0F_ill_formed : opcodeLegal 0x05 = false ∧ opcodeLegal 0x0F = false := by decide

theorem test_opcodes_1D_to_FF_ill_formed : opcodeLegal 0x1D = false ∧ opcodeLegal 0xFF = false := by decide

theorem test_ill_formed_words_not_decoded :
    decodeTableWord 64 0x101 = none ∧ decodeTableWord 64 0x00 = none ∧ decodeTableWord 64 0x05 = none ∧
      decodeTableWord 64 0x1D = none ∧ decodeWord 0x105 = .error .reserved ∧ decodeWord 0x05 = .error .opcode := by
  decide

/-! ### Decoding: every command's word written out from the opcode map (30_encoding.md R63), bits 63:8 zero -/

theorem test_word_hash32 : decodeWord (0#56 ++ 0b00000001#8) = .ok .hash32 := by decide

theorem test_word_hash64 : decodeWord (0#56 ++ 0b00000010#8) = .ok .hash64 := by decide

theorem test_word_hash64_seed : decodeWord (0#56 ++ 0b00000011#8) = .ok .hash64Seed := by decide

theorem test_word_hash64_seeds : decodeWord (0#56 ++ 0b00000100#8) = .ok .hash64Seeds := by decide

theorem test_word_rotr32 : decodeWord (0#56 ++ 0b00010000#8) = .ok .rotr32 := by decide

theorem test_word_rotr64 : decodeWord (0#56 ++ 0b00010001#8) = .ok .rotr64 := by decide

theorem test_word_rotr64_al1 : decodeWord (0#56 ++ 0b00010010#8) = .ok .rotr64Al1 := by decide

theorem test_word_fetch32 : decodeWord (0#56 ++ 0b00010011#8) = .ok .fetch32 := by decide

theorem test_word_fetch64 : decodeWord (0#56 ++ 0b00010100#8) = .ok .fetch64 := by decide

theorem test_word_fmix : decodeWord (0#56 ++ 0b00010101#8) = .ok .fmix := by decide

theorem test_word_mur : decodeWord (0#56 ++ 0b00010110#8) = .ok .mur := by decide

theorem test_word_shiftmix : decodeWord (0#56 ++ 0b00010111#8) = .ok .shiftmix := by decide

theorem test_word_hash128to64 : decodeWord (0#56 ++ 0b00011000#8) = .ok .hash128to64 := by decide

theorem test_word_weakhash : decodeWord (0#56 ++ 0b00011001#8) = .ok .weakhash := by decide

theorem test_word_weakhash_mem : decodeWord (0#56 ++ 0b00011010#8) = .ok .weakhashMem := by decide

theorem test_word_fetch8 : decodeWord (0#56 ++ 0b00011011#8) = .ok .fetch8 := by decide

theorem test_word_bswap32 : decodeWord (0#56 ++ 0b00011100#8) = .ok .bswap32 := by decide

/-! ### One step of each command -/

-- 95_test_vectors.md section 2.1, command-level corner cases.

theorem test_rotr32_ignores_high_half : answer .rotr32 (operands 0 0xffffffff12345678 8 0 0 0 0) hello = some 0x78123456 := by
  decide

theorem test_rotr32_by_32_is_an_error : answerStatus .rotr32 (operands 0 0x12345678 32 0 0 0 0) hello = some 0x0406 := by
  decide

theorem test_rotr64_by_63 :
    answer .rotr64 (operands 0 0x0123456789abcdef 63 0 0 0 0) hello = some 0x02468acf13579bde := by decide

theorem test_rotr64_by_64_is_an_error : answerStatus .rotr64 (operands 0 1 64 0 0 0 0) hello = some 0x0406 := by decide

theorem test_rotr64_al1_by_1 :
    answer .rotr64Al1 (operands 0 0x0123456789abcdef 1 0 0 0 0) hello = some 0x8091a2b3c4d5e6f7 := by decide

theorem test_rotr64_al1_by_0_is_an_error :
    answerStatus .rotr64Al1 (operands 0 0x0123456789abcdef 0 0 0 0 0) hello = some 0x0406 := by decide

theorem test_fetch8_last_byte : answer .fetch8 (operands 5 4 0 0 0 0 0) hello = some 0x6f := by decide

theorem test_fetch8_past_the_end : answerStatus .fetch8 (operands 5 5 0 0 0 0 0) hello = some 0x0406 := by decide

theorem test_fetch32_unaligned : answer .fetch32 (operands 5 1 0 0 0 0 0) hello = some 0x6f6c6c65 := by decide

theorem test_fetch32_length_before_operand : answerStatus .fetch32 (operands 257 1000 0 0 0 0 0) hello = some 0x0306 := by
  decide

theorem test_fetch64_little_endian : answer .fetch64 (operands 8 0 0 0 0 0 0) (pattern 8) = some 0x0706050403020100 := by
  decide

theorem test_fetch64_bound_does_not_wrap :
    answerStatus .fetch64 (operands 8 0xfffffffffffffff8 0 0 0 0 0) (pattern 8) = some 0x0406 := by decide

theorem test_fmix_one : answer .fmix (operands 0 1 0 0 0 0 0) hello = some 0x514e28b7 := by decide

theorem test_fmix_top_bit : answer .fmix (operands 0 0x80000000 0 0 0 0 0) hello = some 0x6d3c65a0 := by decide

theorem test_mur_operand_order : answer .mur (operands 0 5 0x12345678 0 0 0 0) hello = some 0x0bde16ea := by decide

theorem test_mur_all_ones : answer .mur (operands 0 0xffffffff 0xffffffff 0 0 0 0) hello = some 0xb849f5ee := by decide

theorem test_shiftmix_all_ones :
    answer .shiftmix (operands 0 0xffffffffffffffff 0 0 0 0 0) hello = some 0xfffffffffffe0000 := by decide

theorem test_shiftmix_bit_47 :
    answer .shiftmix (operands 0 0x0000800000000000 0 0 0 0 0) hello = some 0x0000800000000001 := by decide

theorem test_hash128to64_lower_lane : answer .hash128to64 (operands 0 1 0 0 0 0 0) hello = some 0xb91445ce692f0ce5 := by
  decide

theorem test_hash128to64_higher_lane : answer .hash128to64 (operands 0 0 1 0 0 0 0) hello = some 0xf4ff80ec63c103d4 := by
  decide

theorem test_weakhash_both_lanes :
    resultsOf (step (accepted .weakhash (operands 0 1 2 3 4 5 6) hello)) = some (0x0f, 0x0000800000b00006) := by decide

theorem test_weakhash_all_ones :
    resultsOf (step (accepted .weakhash (operands 0 (-1) (-1) (-1) (-1) (-1) (-1)) hello)) =
      some (0xfffffffffffffffb, 0xffffe7ffffcffffc) := by decide

theorem test_weakhash_mem_unaligned :
    resultsOf (step (accepted .weakhashMem (operands 64 3 1 2 0 0 0) (pattern 64))) =
      some (0x5854504c4844403d, 0x1ddcb3da99699858) := by decide

theorem test_weakhash_mem_past_the_end :
    answerStatus .weakhashMem (operands 32 1 0 0 0 0 0) (pattern 32) = some 0x0406 := by decide

theorem test_bswap32_bytes : answer .bswap32 (operands 0 0x12345678 0 0 0 0 0) hello = some 0x78563412 := by decide

theorem test_bswap32_high_half_ignored : answer .bswap32 (operands 0 0xffffffffff000000 0 0 0 0 0) hello = some 0xff := by
  decide

-- 95_test_vectors.md section 2.3: the sign extension of band 1, and the LOOP step of n = 41 at OFF = 20.

theorem test_hash32_sign_extends :
    answer .hash32 (operands 4 0 0 0 0 0 0) (bufferOf [0x80, 0x7f, 0xff, 0x00]) = some 0xc348fd00 := by decide

theorem test_hash32_second_chunk :
    (nextOf (exec .hash32 { digest .hash32 41 with
      phase := .loop, off := 20, iters := 1
      work32 := { h := 0x9198ace8, g := 0x2d0e4f45, f := 0xbcbd7a2b } })).map (fun s => (s.work32, s.phase)) =
      some ({ h := 0xe0427466, g := 0x35c85124, f := 0xcb9f6b29 }, .final) := by decide

-- 95_test_vectors.md section 2.4: a zero-extended byte input, and the SETUP step of n = 65.

theorem test_hash64_zero_extends :
    answer .hash64 (operands 1 0 0 0 0 0 0) (bufferOf [0xff]) = some 0x0242073e848b4026 := by decide

theorem test_hash64_setup_of_65 :
    (nextOf (step (digest .hash64 65))).map (fun s => (s.work64, s.iters)) =
      some ({ x := 0xde3975ec15825c49, y := 0x48464442403e3c3a, z := 0x12e28302951222d4
              v := ⟨0x504c4844403c3875, 0x2c72c1ef2eff2abd⟩, w := ⟨0xcda5c372e3e2c59f, 0x74758f76f19b7270⟩ }, 1) := by
  decide

-- 95_test_vectors.md section 2.5.

theorem test_hash64_seed_pattern_9 : resultOf (step (digest .hash64Seed 9)) = some 0xcd222fe72a3d2f85 := by decide

theorem test_hash64_seed_empty : resultOf (step (digest .hash64Seed 0)) = some 0 := by decide

theorem test_hash64_seeds_pattern_33 : resultOf (step (digest .hash64Seeds 33 1 2)) = some 0xd96b04ca3b009e8d := by
  decide

theorem test_hash64_seeds_pattern_20 : resultOf (step (digest .hash64Seeds 20 1 2)) = some 0xe0fad79bb751a2a1 := by
  decide

/-! ### The host's interface of a step -/

/-- `withFetchWord` on the state after reset: the very next step runs the placed command (R84 with all operands 0). -/
theorem test_placed_word_runs :
    statusOf (step (State.reset.withFetchWord 64 0x10)) = some 0x0002 ∧ resultOf (step (State.reset.withFetchWord 64 0x02)) =
      some 0x9ae16a3b2f90404f := by decide

/-- An unwritten input byte is the model's fault (R149). -/
theorem test_unwritten_input_faults : step (accepted .fetch8 (operands 1 0 0 0 0 0 0) ⟨[], []⟩) = .fault .unwrittenInbuf := by
  rfl

/-! ### Witnesses: a concrete state that meets the hypotheses of each statement, clause by clause

A statement not named here has no hypotheses. -/

/-- An idle engine with "hello" written, LEN = 5, and this next event. -/
def idleWith (e : Event) : State :=
  { State.reset with regs := operands 5 0 0 0 0 0 0, inbuf := hello, events := [e] }

/-- A command running on "hello", with this next event. -/
def busyWith (e : Event) : State := { accepted .hash32 (operands 5 0 0 0 0 0 0) hello with events := [e] }

/-- HASH32 on pattern(41) in LOOP, at its first chunk. -/
def loop41 : State := { digest .hash32 41 with phase := .loop, iters := 2 }

/-- HASH64 on pattern(65) in LOOP, at its only chunk. -/
def loop65 : State := { digest .hash64 65 with phase := .loop, iters := 1 }

/-- HASH32 on pattern(41) in FINAL. -/
def final41 : State := { digest .hash32 41 with phase := .final, off := 40 }

/-- HASH64_SEEDS on pattern(65) in FINAL. -/
def final65 : State := { digest .hash64Seeds 65 with phase := .final, off := 64 }

/-- An engine with the largest INBUF. -/
def largest : State :=
  { digest .hash32 4 with params := { Params.default with maxlen := 0xffffffffffffffff } }

/-- FETCH8, FETCH32, FETCH64 or WEAKHASH_MEM just accepted with this LEN and offset, on pattern(64). -/
def window (i : Instr) (len off : U64) : State := accepted i (operands len off 0 0 0 0 0) (pattern 64)

theorem witness_ResetEventRestoresEveryRegister :
    (busyWith .reset).events = .reset :: [] ∧ (busyWith .reset).busy = true := by decide

theorem witness_OperandRegisterWriteSparesRunningCommand :
    operandReg .len = true ∧ operandReg .opf = true ∧ HostReg.len ≠ HostReg.opf ∧
      (busyWith (.host (.regWrite (offsetOf .opf) 8 7))).events = .host (.regWrite (offsetOf .opf) 8 7) :: [] := by decide

theorem witness_ReservedOffsetsReadZeroIgnoreWrites :
    (0x78 % 8 = 0 ∧ 0x78 ≤ 0x78 ∧ 0x78 ≤ 0xF8 ∧
      (idleWith (.host (.regWrite 0x78 8 7))).events = .host (.regWrite 0x78 8 7) :: []) ∧
    (0xF8 % 8 = 0 ∧ 0x78 ≤ 0xF8 ∧ 0xF8 ≤ 0xF8 ∧
      (idleWith (.host (.regRead 0xF8 8))).events = .host (.regRead 0xF8 8) :: []) := by decide

theorem witness_MaxlenIsAConstant : ∃ t, step (busyWith .engine) = .next t := ⟨_, rfl⟩

theorem witness_RegisterWindowMap :
    (idleWith (.host (.regRead (offsetOf .maxlen) 8))).events = .host (.regRead (offsetOf .maxlen) 8) :: [] ∧
      (idleWith (.host (.regWrite (offsetOf .cmd) 8 1))).events = .host (.regWrite (offsetOf .cmd) 8 1) :: [] := by
  decide

theorem inv_accepted_on_hello : (busyWith .wait).Inv where
  constantsOdd := by decide
  memoryCanonical := by decide
  memoryBounded := by decide
  busyStatus := by decide
  errcodeLegal := by decide
  loopRunsLongDigest := fun h => by cases h
  finalRunsLongDigest := fun h => by cases h

theorem inv_loop41 : loop41.Inv where
  constantsOdd := by decide
  memoryCanonical := by decide
  memoryBounded := by decide
  busyStatus := by decide
  errcodeLegal := by decide
  loopRunsLongDigest := fun _ => ⟨20, by decide⟩
  finalRunsLongDigest := fun h => by cases h

theorem inv_final65 : final65.Inv where
  constantsOdd := by decide
  memoryCanonical := by decide
  memoryBounded := by decide
  busyStatus := by decide
  errcodeLegal := by decide
  loopRunsLongDigest := fun h => by cases h
  finalRunsLongDigest := fun _ => ⟨64, by decide⟩

theorem reset_inv : State.reset.Inv where
  constantsOdd := by decide
  memoryCanonical := by decide
  memoryBounded := by decide
  busyStatus := by decide
  errcodeLegal := by decide
  loopRunsLongDigest := fun h => by cases h
  finalRunsLongDigest := fun h => by cases h

theorem witness_StatusLayoutAndWriteOneToClear :
    (busyWith .wait).Inv ∧ (busyWith .wait).status.err = false ∧
      (readReg .status (busyWith .wait)).getLsbD 0 = true ∧ ((4 ≤ 7 ∧ 7 ≤ 7) ∨ 16 ≤ 7) ∧ ((4 ≤ 16 ∧ 16 ≤ 7) ∨ 16 ≤ 16) :=
  ⟨inv_accepted_on_hello, by decide⟩

theorem witness_InterruptEnableAndLine : (irqenWord { State.reset with doneIe := true }).getLsbD 0 = true ∧ 1 ≤ 1 := by decide

theorem witness_OutOfInterfaceAccessRefused :
    (idleWith (.host (.regRead 0 4))).events = .host (.regRead 0 4) :: [] ∧ ¬(4 = 8 ∧ 0 % 8 = 0 ∧ 0 < 256) ∧
      ¬(8 = 8 ∧ 4 % 8 = 0 ∧ 4 < 256) ∧ ¬(8 = 8 ∧ 256 % 8 = 0 ∧ 256 < 256) ∧ (8 = 8 ∧ 248 % 8 = 0 ∧ 248 < 256) ∧
      (idleWith (.host (.regWrite 248 8 1))).events = .host (.regWrite 248 8 1) :: [] := by decide

theorem witness_HostReadsHaveNoSideEffect :
    (∃ u, step (busyWith (.host (.regRead 0x08 8))) = .next u) ∧
      ∃ u, step (busyWith (.host (.bufRead 255))) = .next u := ⟨⟨_, rfl⟩, ⟨_, rfl⟩⟩

theorem witness_InbufHostAccess :
    (255 < (idleWith (.host (.bufWrite 255 1))).params.maxlen.toNat ∧ (idleWith (.host (.bufWrite 255 1))).busy = false) ∧
    ((idleWith (.host (.bufWrite 256 1))).params.maxlen.toNat ≤ 256 ∧ (busyWith (.host (.bufWrite 0 1))).busy = true) ∧
    ((idleWith (.host (.bufRead 4))).inbuf.readByte 4 = some 0x6f ∧
      4 < (idleWith (.host (.bufRead 4))).params.maxlen.toNat) ∧
    ((idleWith (.host (.bufRead 255))).inbuf.readByte 255 = none ∧
      255 < (idleWith (.host (.bufRead 255))).params.maxlen.toNat) ∧
    (idleWith (.host (.bufRead 256))).params.maxlen.toNat ≤ 256 ∧
    (idleWith (.host (.bufRead 256))).events = .host (.bufRead 256) :: [] ∧
    (idleWith (.host (.bufWrite 255 1))).events = .host (.bufWrite 255 1) :: [] := by decide

theorem witness_CommandAcceptance :
    ((busyWith (.host (.regWrite 0x00 8 1))).busy = true ∧
      (busyWith (.host (.regWrite 0x00 8 1))).events = .host (.regWrite 0x00 8 1) :: []) ∧
    ((idleWith (.host (.regWrite 0x00 8 1))).busy = false ∧
      (idleWith (.host (.regWrite 0x00 8 1))).events = .host (.regWrite 0x00 8 1) :: []) := by decide

theorem witness_EngineStepRunsDecodedCommand :
    ((digest .hash32 5).busy = true ∧ current (digest .hash32 5) = .ok .hash32 ∧ (digest .hash32 5).events = []) ∧
    ((busyWith .engine).busy = true ∧ current (busyWith .engine) = .ok .hash32 ∧
      (busyWith .engine).events = .engine :: []) := by decide

theorem witness_IdleEngineDoesNothing :
    (State.reset.phase = .idle ∧ State.reset.events = []) ∧
      ((idleWith .engine).phase = .idle ∧ (idleWith .engine).events = .engine :: []) := by decide

theorem witness_ReservedBitsEndWithErrReserved :
    (idleWith (.host (.regWrite 0x00 8 0x101))).busy = false ∧ (0x101 : U64).toNat / 256 ≠ 0 ∧
      (0x100 : U64).toNat / 256 ≠ 0 ∧ (0x8000000000000001 : U64).toNat / 256 ≠ 0 ∧
      (idleWith (.host (.regWrite 0x00 8 0x101))).events = [.host (.regWrite 0x00 8 0x101)] := by decide

theorem witness_IllegalOpcodeEndsWithErrOpcode :
    (idleWith (.host (.regWrite 0x00 8 0x1D))).busy = false ∧
      (idleWith (.host (.regWrite 0x00 8 0x1D))).events = [.host (.regWrite 0x00 8 0x1D)] ∧
      (0x1D : U64).toNat < 256 ∧ 0x1D ≤ (0x1D : U64).toNat ∧ (0xFF : U64).toNat < 256 ∧ 0x1D ≤ (0xFF : U64).toNat ∧
      (0x00 : U64).toNat = 0x00 ∧ (0x05 ≤ (0x05 : U64).toNat ∧ (0x05 : U64).toNat ≤ 0x0F) ∧
      (0x05 ≤ (0x0F : U64).toNat ∧ (0x0F : U64).toNat ≤ 0x0F) := by decide

theorem witness_Rotr32Command :
    (accepted .rotr32 (operands 0 1 31 0 0 0 0) hello).latched.opb.toNat ≤ 31 ∧
      31 < (accepted .rotr32 (operands 0 1 32 0 0 0 0) hello).latched.opb.toNat := by decide

theorem witness_Rotr64Command :
    (accepted .rotr64 (operands 0 1 63 0 0 0 0) hello).latched.opb.toNat ≤ 63 ∧
      63 < (accepted .rotr64 (operands 0 1 64 0 0 0 0) hello).latched.opb.toNat := by decide

theorem witness_Rotr64AtLeast1Command :
    (1 ≤ (accepted .rotr64Al1 (operands 0 1 1 0 0 0 0) hello).latched.opb.toNat ∧
      (accepted .rotr64Al1 (operands 0 1 1 0 0 0 0) hello).latched.opb.toNat ≤ 63) ∧
    (1 ≤ (accepted .rotr64Al1 (operands 0 1 63 0 0 0 0) hello).latched.opb.toNat ∧
      (accepted .rotr64Al1 (operands 0 1 63 0 0 0 0) hello).latched.opb.toNat ≤ 63) ∧
    (accepted .rotr64Al1 (operands 0 1 0 0 0 0 0) hello).latched.opb.toNat = 0 ∧
    63 < (accepted .rotr64Al1 (operands 0 1 64 0 0 0 0) hello).latched.opb.toNat := by decide

theorem witness_FetchCommands :
    (window .fetch8 257 0).params.maxlen.toNat < (window .fetch8 257 0).latched.len.toNat ∧
    (window .fetch8 64 64).latched.len.toNat ≤ (window .fetch8 64 64).params.maxlen.toNat ∧
    (window .fetch8 64 64).latched.len.toNat < (window .fetch8 64 64).latched.opa.toNat + 1 ∧
    (window .fetch32 64 61).latched.len.toNat < (window .fetch32 64 61).latched.opa.toNat + 4 ∧
    (window .fetch64 64 57).latched.len.toNat < (window .fetch64 64 57).latched.opa.toNat + 8 ∧
    ((window .fetch8 64 63).latched.opa.toNat + 1 ≤ (window .fetch8 64 63).latched.len.toNat ∧
      holdsAt (window .fetch8 64 63).inbuf patternByte (window .fetch8 64 63).latched.opa.toNat 1) ∧
    ((window .fetch32 64 60).latched.opa.toNat + 4 ≤ (window .fetch32 64 60).latched.len.toNat ∧
      holdsAt (window .fetch32 64 60).inbuf patternByte (window .fetch32 64 60).latched.opa.toNat 4) ∧
    ((window .fetch64 64 56).latched.opa.toNat + 8 ≤ (window .fetch64 64 56).latched.len.toNat ∧
      holdsAt (window .fetch64 64 56).inbuf patternByte (window .fetch64 64 56).latched.opa.toNat 8) := by
  unfold holdsAt
  decide

theorem witness_ShiftmixCommand :
    (accepted .shiftmix (operands 0 0x00007fffffffffff 0 0 0 0 0) hello).latched.opa.toNat < 2 ^ 47 := by decide

theorem witness_WeakhashMemCommand :
    (window .weakhashMem 257 0).params.maxlen.toNat < (window .weakhashMem 257 0).latched.len.toNat ∧
    (window .weakhashMem 64 33).latched.len.toNat ≤ (window .weakhashMem 64 33).params.maxlen.toNat ∧
    (window .weakhashMem 64 33).latched.len.toNat < (window .weakhashMem 64 33).latched.opa.toNat + 32 ∧
    (window .weakhashMem 64 32).latched.opa.toNat + 32 ≤ (window .weakhashMem 64 32).latched.len.toNat ∧
    holdsAt (window .weakhashMem 64 32).inbuf patternByte (window .weakhashMem 64 32).latched.opa.toNat 32 := by
  unfold holdsAt
  decide

theorem witness_LengthAboveBufferEndsWithErrLen :
    (readsInbuf .hash32 = true ∧ (digest .hash32 257).phase = .setup ∧
      (digest .hash32 257).params.maxlen.toNat < (digest .hash32 257).latched.len.toNat) ∧
    largest.params.maxlen.toNat = 2 ^ 64 - 1 ∧ largest.status.errcode ≠ 0x03 ∧ ∃ t, exec .hash32 largest = .next t :=
  ⟨by decide, by decide, by decide, _, rfl⟩

theorem witness_Hash32UpTo4Bytes :
    ((digest .hash32 0).phase = .setup ∧ (digest .hash32 0).latched.len.toNat ≤ 4 ∧
      (digest .hash32 0).latched.len.toNat ≤ (digest .hash32 0).params.maxlen.toNat ∧
      holds (digest .hash32 0).inbuf patternByte (digest .hash32 0).latched.len.toNat) ∧
    ((digest .hash32 4).phase = .setup ∧ (digest .hash32 4).latched.len.toNat ≤ 4 ∧
      (digest .hash32 4).latched.len.toNat ≤ (digest .hash32 4).params.maxlen.toNat ∧
      holds (digest .hash32 4).inbuf patternByte (digest .hash32 4).latched.len.toNat) := by
  unfold holds
  decide

theorem witness_Hash32From5To12Bytes :
    ((digest .hash32 5).phase = .setup ∧ 5 ≤ (digest .hash32 5).latched.len.toNat ∧
      (digest .hash32 5).latched.len.toNat ≤ 12 ∧
      (digest .hash32 5).latched.len.toNat ≤ (digest .hash32 5).params.maxlen.toNat ∧
      holds (digest .hash32 5).inbuf patternByte (digest .hash32 5).latched.len.toNat) ∧
    ((digest .hash32 12).latched.len.toNat ≤ 12 ∧
      holds (digest .hash32 12).inbuf patternByte (digest .hash32 12).latched.len.toNat) := by
  unfold holds
  decide

theorem witness_Hash32From13To24Bytes :
    ((digest .hash32 13).phase = .setup ∧ 13 ≤ (digest .hash32 13).latched.len.toNat ∧
      (digest .hash32 13).latched.len.toNat ≤ 24 ∧
      (digest .hash32 13).latched.len.toNat ≤ (digest .hash32 13).params.maxlen.toNat ∧
      holds (digest .hash32 13).inbuf patternByte (digest .hash32 13).latched.len.toNat) ∧
    ((digest .hash32 24).latched.len.toNat ≤ 24 ∧
      holds (digest .hash32 24).inbuf patternByte (digest .hash32 24).latched.len.toNat) := by
  unfold holds
  decide

theorem witness_Hash32LongSetup :
    (digest .hash32 25).phase = .setup ∧ 25 ≤ (digest .hash32 25).latched.len.toNat ∧
      (digest .hash32 25).latched.len.toNat ≤ (digest .hash32 25).params.maxlen.toNat ∧
      holdsAt (digest .hash32 25).inbuf patternByte ((digest .hash32 25).latched.len.toNat - 20) 20 := by
  unfold holdsAt
  decide

theorem witness_Hash32LoopStep : loop41.phase = .loop ∧ holdsAt loop41.inbuf patternByte loop41.off.toNat 20 := by
  unfold holdsAt
  decide

theorem witness_Hash32FinalStep : final41.phase = .final := by decide

theorem witness_Hash32EngineComputesFunctionView :
    (digest .hash32 25).events = [] ∧ (digest .hash32 25).phase = .setup ∧ current (digest .hash32 25) = .ok .hash32 ∧
      25 ≤ (digest .hash32 25).latched.len.toNat ∧
      (digest .hash32 25).latched.len.toNat ≤ (digest .hash32 25).params.maxlen.toNat ∧
      written (digest .hash32 25).inbuf (digest .hash32 25).latched.len.toNat := by
  unfold written
  decide

theorem witness_Hash64UpTo16Bytes :
    (isHash64 .hash64 = true ∧ (digest .hash64 9).phase = .setup ∧
      (digest .hash64 9).latched.len.toNat ≤ (digest .hash64 9).params.maxlen.toNat ∧
      holds (digest .hash64 9).inbuf patternByte (digest .hash64 9).latched.len.toNat ∧
      9 ≤ (digest .hash64 9).latched.len.toNat ∧ (digest .hash64 9).latched.len.toNat ≤ 16) ∧
    (isHash64 .hash64Seed = true ∧ holds (digest .hash64Seed 8).inbuf patternByte (digest .hash64Seed 8).latched.len.toNat ∧
      4 ≤ (digest .hash64Seed 8).latched.len.toNat ∧ (digest .hash64Seed 8).latched.len.toNat ≤ 8) ∧
    (isHash64 .hash64Seeds = true ∧
      holds (digest .hash64Seeds 1).inbuf patternByte (digest .hash64Seeds 1).latched.len.toNat ∧
      1 ≤ (digest .hash64Seeds 1).latched.len.toNat ∧ (digest .hash64Seeds 1).latched.len.toNat ≤ 3) ∧
    (holds (digest .hash64 0).inbuf patternByte (digest .hash64 0).latched.len.toNat ∧
      (digest .hash64 0).latched.len.toNat = 0) := by
  unfold holds
  decide

theorem witness_Hash64From17To32Bytes :
    isHash64 .hash64 = true ∧ (digest .hash64 17).phase = .setup ∧ 17 ≤ (digest .hash64 17).latched.len.toNat ∧
      (digest .hash64 17).latched.len.toNat ≤ 32 ∧
      (digest .hash64 17).latched.len.toNat ≤ (digest .hash64 17).params.maxlen.toNat ∧
      holds (digest .hash64 17).inbuf patternByte (digest .hash64 17).latched.len.toNat ∧
      (digest .hash64 32).latched.len.toNat ≤ 32 := by
  unfold holds
  decide

theorem witness_Hash64From33To64Bytes :
    isHash64 .hash64Seeds = true ∧ (digest .hash64Seeds 64).phase = .setup ∧
      33 ≤ (digest .hash64Seeds 64).latched.len.toNat ∧ (digest .hash64Seeds 64).latched.len.toNat ≤ 64 ∧
      (digest .hash64Seeds 64).latched.len.toNat ≤ (digest .hash64Seeds 64).params.maxlen.toNat ∧
      holds (digest .hash64Seeds 64).inbuf patternByte (digest .hash64Seeds 64).latched.len.toNat ∧
      33 ≤ (digest .hash64Seeds 33).latched.len.toNat := by
  unfold holds
  decide

theorem witness_Hash64LongSetup :
    isHash64 .hash64 = true ∧ (digest .hash64 65).phase = .setup ∧ 65 ≤ (digest .hash64 65).latched.len.toNat ∧
      (digest .hash64 65).latched.len.toNat ≤ (digest .hash64 65).params.maxlen.toNat ∧
      holdsAt (digest .hash64 65).inbuf patternByte ((digest .hash64 65).latched.len.toNat - 64) 64 ∧
      holdsAt (digest .hash64 65).inbuf patternByte 0 8 := by
  unfold holdsAt
  decide

theorem witness_Hash64LoopStep :
    isHash64 .hash64 = true ∧ loop65.phase = .loop ∧ holdsAt loop65.inbuf patternByte loop65.off.toNat 64 := by
  unfold holdsAt
  decide

theorem witness_Hash64FinalStep : isHash64 .hash64Seeds = true ∧ final65.phase = .final := by decide

theorem witness_Hash64EngineComputesFunctionView :
    isHash64 .hash64Seeds = true ∧ (digest .hash64Seeds 65).events = [] ∧ (digest .hash64Seeds 65).phase = .setup ∧
      current (digest .hash64Seeds 65) = .ok .hash64Seeds ∧ 65 ≤ (digest .hash64Seeds 65).latched.len.toNat ∧
      (digest .hash64Seeds 65).latched.len.toNat ≤ (digest .hash64Seeds 65).params.maxlen.toNat ∧
      written (digest .hash64Seeds 65).inbuf (digest .hash64Seeds 65).latched.len.toNat := by
  unfold written
  decide

theorem witness_SeedIsTwoSeedsWithK2 :
    (digest .hash64Seeds 5 0x9ae16a3b2f90404f 2).latched.seed0 =
      (digest .hash64Seeds 5 0x9ae16a3b2f90404f 2).params.k2 ∧
    (digest .hash64Seed 0).phase = .setup ∧ (digest .hash64Seed 0).latched.len = 0 ∧
      (digest .hash64Seed 0).latched.seed0 = 0 := by decide

theorem witness_FaultsExactlyOnUnwrittenInput :
    ((digest .hash32 24).latched.len.toNat ≤ 24 ∧ (digest .hash32 24).phase = .setup ∧
      (digest .hash32 24).latched.len.toNat ≤ (digest .hash32 24).params.maxlen.toNat) ∧
    (isHash64 .hash64 = true ∧ (digest .hash64 64).latched.len.toNat ≤ 64 ∧ (digest .hash64 64).phase = .setup) ∧
    (25 ≤ (digest .hash32 25).latched.len.toNat ∧ (digest .hash32 25).phase = .setup) ∧
    (65 ≤ (digest .hash64 65).latched.len.toNat ∧ (digest .hash64 65).phase = .setup) ∧
    (loop41.phase = .loop ∧ loop65.phase = .loop) ∧
    (readWidth .weakhashMem = some 32 ∧
      (window .weakhashMem 64 32).latched.len.toNat ≤ (window .weakhashMem 64 32).params.maxlen.toNat ∧
      (window .weakhashMem 64 32).latched.opa.toNat + 32 ≤ (window .weakhashMem 64 32).latched.len.toNat) ∧
    -- both sides of the equivalence occur
    faults (exec .weakhashMem { window .weakhashMem 64 32 with inbuf := pattern 63 }) = true ∧
    faults (exec .weakhashMem (window .weakhashMem 64 32)) = false := by decide

theorem witness_StepDependsOnlyOnInputBytes :
    loop41.Inv ∧ loop41.busy = true ∧ current loop41 = .ok .hash32 ∧
      (∀ a, a < loop41.latched.len.toNat → (pattern 42).readByte a = loop41.inbuf.readByte a) ∧
      pattern 42 ≠ loop41.inbuf := ⟨inv_loop41, by decide⟩

theorem witness_CommandFrame :
    (∃ t, exec .hash32 loop41 = .next t ∧ t.busy = true) ∧
      (∃ t, exec .rotr32 (accepted .rotr32 (operands 0 1 32 0 0 0 0) hello) = .next t ∧ t.status.err = true) ∧
      ∃ t, exec .fmix (accepted .fmix (operands 0 1 0 0 0 0 0) hello) = .next t ∧ t.busy = false :=
  ⟨⟨_, rfl, rfl⟩, ⟨_, rfl, rfl⟩, ⟨_, rfl, rfl⟩⟩

theorem witness_EveryStepKeepsInvariant :
    (loop41.Inv ∧ ∃ t, step loop41 = .next t) ∧ (final65.Inv ∧ ∃ t, step final65 = .next t) :=
  ⟨⟨inv_loop41, _, rfl⟩, ⟨inv_final65, _, rfl⟩⟩

theorem witness_EveryCommandCompletesInExactlyItsSteps :
    loop41.Inv ∧ loop41.busy = true ∧ loop41.events = [] ∧ stepsLeft loop41 = 3 ∧
      written loop41.inbuf loop41.latched.len.toNat :=
  ⟨inv_loop41, by decide, by decide, by decide, by unfold written; decide⟩

theorem witness_WdropSetExactlyByDroppedWrites :
    ((busyWith (.host (.regWrite 0x00 8 1))).busy = true ∧
      (busyWith (.host (.regWrite 0x00 8 1))).events = .host (.regWrite 0x00 8 1) :: []) ∧
    ((busyWith (.host (.bufWrite 0 1))).busy = true ∧
      (idleWith (.host (.bufWrite 256 1))).params.maxlen.toNat ≤ 256) ∧
    (∃ t, step (busyWith (.host (.regWrite 0x00 8 1))) = .next t ∧
      (busyWith (.host (.regWrite 0x00 8 1))).status.wdrop = false ∧ t.status.wdrop = true) ∧
    ∃ t, step { busyWith (.host (.regWrite 0x08 8 0x8)) with status := Status.zero.drop } = .next t ∧
      t.status.wdrop = false := ⟨by decide, by decide, ⟨_, rfl, by decide⟩, ⟨_, rfl, by decide⟩⟩

theorem witness_RunningCommandIsNotDisturbed :
    ((busyWith .engine).busy = true ∧ (∀ rest, (busyWith .engine).events ≠ .reset :: rest) ∧
      ∃ t, step (busyWith .engine) = .next t ∧ t.busy = false) ∧
    ((∀ rest, (busyWith (.host (.regWrite 0x10 8 1))).events ≠ .reset :: rest) ∧
      ∃ t, step (busyWith (.host (.regWrite 0x10 8 1))) = .next t) ∧
    ((∀ rest, (busyWith .wait).events ≠ .reset :: rest) ∧ ∃ t, step (busyWith .wait) = .next t) :=
  ⟨⟨by decide, fun _ h => (by cases h), _, rfl, rfl⟩, ⟨fun _ h => (by cases h), _, rfl⟩,
    ⟨fun _ h => (by cases h), _, rfl⟩⟩

theorem witness_ResultIsStaleWhileBusy : ∃ t, step loop41 = .next t ∧ t.busy = true := ⟨_, rfl, rfl⟩

theorem witness_DoneIsSticky :
    (∃ t, step { idleWith (.host (.regWrite 0x08 8 0x2)) with status := Status.zero.complete } = .next t ∧
      Status.zero.complete.done = true ∧ t.status.done = false) ∧
    (idleWith .engine).busy = false := ⟨⟨_, rfl, by decide⟩, by decide⟩

theorem witness_HostSequenceLinesAndWait :
    encodeTxn (.bufWrite 3 0xff) = some ⟨.bw, 3, 0xff⟩ ∧
    ({ idleWith .wait with status := Status.zero.complete } : State).status.done = true ∧
    (busyWith .wait).Inv ∧ (busyWith .wait).busy = true ∧ (busyWith .wait).events = .wait :: [] ∧
      written (busyWith .wait).inbuf (busyWith .wait).latched.len.toNat :=
  ⟨by decide, by decide, inv_accepted_on_hello, by decide, by decide, by unfold written; decide⟩

end Sys2Proof.Tests
end

section
/-! SUPPORT. The invariant of the machine: it holds at reset, and every step keeps it. First what each named update does to
the invariant, then one lemma for each of the step's case lists (`Move`, `engineStep_cases`, `RegMove`, `HostMove`,
`step_cases`). -/

namespace Sys2Proof.Machine

/-! ### What an update of the state does to the invariant -/

/-- A legal error field: one of the five codes, 0 exactly when ERR = 0 (10_state.md R23, 60_exceptions.md R130). -/
abbrev Status.errorLegal (st : Status) : Prop := st.errcode.toNat ≤ 4 ∧ (st.err = false ↔ st.errcode = 0)

theorem status_complete_errorLegal (st : Status) : st.complete.errorLegal := by simp [Status.errorLegal]

theorem status_fail_errorLegal (st : Status) (e : CmdError) : (st.fail e).errorLegal := by
  cases e <;> simp [Status.errorLegal, CmdError.code]

/-- While idle the invariant asks nothing of the running command. -/
theorem State.Inv.of_idle {s : State} (hparams : s.params.wf) (hmem : s.inbuf.wf)
    (hbound : ∀ a ∈ s.inbuf.cells.map Prod.fst, a < s.params.maxlen.toNat) (hphase : s.phase = .idle)
    (hstatus : s.status.errorLegal) : s.Inv where
  constantsOdd := hparams
  memoryCanonical := hmem
  memoryBounded := hbound
  busyStatus := fun hb => absurd hphase ((busy_iff s).mp hb)
  errcodeLegal := hstatus
  loopRunsLongDigest := by simp [hphase]
  finalRunsLongDigest := by simp [hphase]

/-- The end of a command, normal or by an error, keeps the invariant: it idles the engine and leaves INBUF alone. -/
theorem State.Inv.of_command_end {s t : State} (h : s.Inv) (hparams : t.params = s.params) (hmem : t.inbuf = s.inbuf)
    (hphase : t.phase = .idle) (hstatus : t.status.errorLegal) : t.Inv :=
  .of_idle (hparams ▸ h.constantsOdd) (hmem ▸ h.memoryCanonical)
    (by rw [hmem, hparams]; exact h.memoryBounded) hphase hstatus

/-- The invariant does not look at the host's operand registers, IRQEN, the working registers or the model's own fields. -/
theorem State.Inv.with_unread {s : State} (h : s.Inv) {regs : OperandRegs} {doneIe : Bool} {work32 : Work32}
    {work64 : Work64} {events : List Event} {hostData : U64} {draws : Nat} :
    State.Inv { s with
      regs := regs, doneIe := doneIe, work32 := work32, work64 := work64, events := events, hostData := hostData,
      draws := draws } where
  constantsOdd := h.constantsOdd
  memoryCanonical := h.memoryCanonical
  memoryBounded := h.memoryBounded
  busyStatus := h.busyStatus
  errcodeLegal := h.errcodeLegal
  loopRunsLongDigest := h.loopRunsLongDigest
  finalRunsLongDigest := h.finalRunsLongDigest

/-- A change of STATUS that leaves ERR and ERRCODE alone and does not set DONE keeps the invariant. -/
theorem State.Inv.with_status {s : State} (h : s.Inv) {st : Status}
    (hdone : s.status.done = false → st.done = false) (herr : st.err = s.status.err)
    (hcode : st.errcode = s.status.errcode) : State.Inv { s with status := st } where
  constantsOdd := h.constantsOdd
  memoryCanonical := h.memoryCanonical
  memoryBounded := h.memoryBounded
  busyStatus := fun hb => by
    obtain ⟨hd, he, hc⟩ := h.busyStatus hb
    exact ⟨hdone hd, herr.trans he, hcode.trans hc⟩
  errcodeLegal := by
    rw [herr, hcode]
    exact h.errcodeLegal
  loopRunsLongDigest := h.loopRunsLongDigest
  finalRunsLongDigest := h.finalRunsLongDigest

theorem dropWrite_keeps_inv {s : State} (h : s.Inv) : (dropWrite s).Inv := h.with_status id rfl rfl

theorem accept_keeps_inv (word : U64) {s : State} (h : s.Inv) : (accept word s).Inv where
  constantsOdd := h.constantsOdd
  memoryCanonical := h.memoryCanonical
  memoryBounded := h.memoryBounded
  busyStatus := by simp
  errcodeLegal := by simp
  loopRunsLongDigest := by simp
  finalRunsLongDigest := by simp

theorem writeByte_keeps_inv {s : State} (h : s.Inv) {a : Nat} (b : U8) (ha : a < s.params.maxlen.toNat) :
    State.Inv { s with inbuf := s.inbuf.writeByte a b } where
  constantsOdd := h.constantsOdd
  memoryCanonical := writeByte_keeps_wf _ _ _ h.memoryCanonical
  memoryBounded := fun x hx => by
    rcases (mem_keys_insertCell _ _ _ _).mp hx with rfl | hx
    · exact ha
    · exact h.memoryBounded x hx
  busyStatus := h.busyStatus
  errcodeLegal := h.errcodeLegal
  loopRunsLongDigest := h.loopRunsLongDigest
  finalRunsLongDigest := h.finalRunsLongDigest

theorem applyReset_keeps_inv {s : State} (h : s.Inv) : (applyReset s).Inv :=
  .of_idle h.constantsOdd (clearMarks_keeps_wf _ h.memoryCanonical) h.memoryBounded rfl
    (by simp [Status.errorLegal, Status.zero])

theorem pollDone_keeps_inv {s : State} (h : s.Inv) : (pollDone s).Inv := by
  simp only [pollDone]
  split
  · exact h.with_unread
  · exact h.with_unread

/-! ### The long path -/

/-- The chunk size of a running HASH32 is 20, and it has one from 25 bytes on (41_hash32.md R97). -/
theorem runningChunk_hash32_iff {s : State} (hc : current s = .ok .hash32) (c : Nat) :
    runningChunk s = some c ↔
      c = 20 ∧ 25 ≤ s.latched.len.toNat ∧ s.latched.len.toNat ≤ s.params.maxlen.toNat := by
  simp only [runningChunk, hc, longChunk]
  split <;> simp <;> omega

/-- The chunk size of a running Hash64-family command is 64, and it has one from 65 bytes on (42_hash64.md R108). -/
theorem runningChunk_hash64_iff {s : State} {i : Instr} (hi : isHash64 i = true) (hc : current s = .ok i) (c : Nat) :
    runningChunk s = some c ↔
      c = 64 ∧ 65 ≤ s.latched.len.toNat ∧ s.latched.len.toNat ≤ s.params.maxlen.toNat := by
  have hl : longChunk i s.latched.len.toNat = if 65 ≤ s.latched.len.toNat then some 64 else none := by
    cases i with
    | hash64 | hash64Seed | hash64Seeds => rfl
    | _ => cases hi
  simp only [runningChunk, hc, hl]
  split <;> simp <;> omega

/-- Entering the loop: OFF = 0, and ITERS counts every chunk of an input longer than one chunk. -/
theorem startLoop_keeps_inv {s : State} {c : Nat} (h : s.Inv) (hb : s.busy = true) (hr : runningChunk s = some c)
    (hc : 0 < c) (hn : c < s.latched.len.toNat) :
    (startLoop (BitVec.ofNat 64 ((s.latched.len.toNat - 1) / c)) s).Inv where
  constantsOdd := h.constantsOdd
  memoryCanonical := h.memoryCanonical
  memoryBounded := h.memoryBounded
  busyStatus := fun _ => h.busyStatus hb
  errcodeLegal := h.errcodeLegal
  loopRunsLongDigest := fun _ => by
    have hfit : (BitVec.ofNat 64 ((s.latched.len.toNat - 1) / c)).toNat = (s.latched.len.toNat - 1) / c := by
      have := Nat.div_le_self (s.latched.len.toNat - 1) c
      rw [BitVec.toNat_ofNat, Nat.mod_eq_of_lt (by omega)]
    have hone : 1 ≤ (s.latched.len.toNat - 1) / c := Nat.div_pos (by omega) hc
    exact ⟨c, hr, by simpa [hfit] using hone, by simp [hfit]⟩
  finalRunsLongDigest := by simp

theorem advanceLoop_phase_loop_iff (c : U64) (s : State) : (advanceLoop c s).phase = .loop ↔ s.iters - 1 ≠ 0 := by
  simp only [advanceLoop_phase, ite_eq_right_iff, reduceCtorEq, imp_false, ne_eq]

theorem advanceLoop_phase_final_iff (c : U64) (s : State) : (advanceLoop c s).phase = .final ↔ s.iters - 1 = 0 := by
  simp only [advanceLoop_phase, ite_eq_left_iff, reduceCtorEq, imp_false, not_not]

/-- OFF one chunk on and ITERS one down name the same end of the input; OFF does not wrap, since it stays below LEN. -/
theorem off_add_chunk_of_iters_sub_one {n off iters c : U64} (hiters : 1 ≤ iters.toNat)
    (hoff : off.toNat + c.toNat * iters.toNat = c.toNat * ((n.toNat - 1) / c.toNat)) :
    (off + c).toNat + c.toNat * (iters - 1).toNat = c.toNat * ((n.toNat - 1) / c.toNat) := by
  have hpred : iters.toNat = (iters - 1).toNat + 1 := by bv_omega
  rw [hpred, Nat.mul_succ] at hoff
  have hle : c.toNat * ((n.toNat - 1) / c.toNat) ≤ n.toNat - 1 := Nat.mul_div_le _ _
  have hnowrap : (off + c).toNat = off.toNat + c.toNat := by
    rw [BitVec.toNat_add, Nat.mod_eq_of_lt (by omega)]
  omega

/-- A LOOP step keeps OFF and ITERS in step, and goes to FINAL exactly when no chunk is left. -/
theorem advanceLoop_keeps_inv {s : State} {c : U64} (h : s.Inv) (hp : s.phase = .loop)
    (hr : runningChunk s = some c.toNat) : (advanceLoop c s).Inv := by
  obtain ⟨c', hr', hiters, hoff⟩ := h.loopRunsLongDigest hp
  obtain rfl : c' = c.toNat := Option.some.inj (hr'.symm.trans hr)
  have hoff' := off_add_chunk_of_iters_sub_one hiters hoff
  exact
    { constantsOdd := h.constantsOdd
      memoryCanonical := h.memoryCanonical
      memoryBounded := h.memoryBounded
      busyStatus := fun _ => h.busyStatus ((busy_iff s).mpr (by simp [hp]))
      errcodeLegal := h.errcodeLegal
      loopRunsLongDigest := fun ht => by
        have hne : s.iters - 1 ≠ 0 := (advanceLoop_phase_loop_iff c s).mp ht
        exact ⟨c.toNat, hr, by rw [advanceLoop_iters]; bv_omega, hoff'⟩
      finalRunsLongDigest := fun ht => by
        have hz : s.iters - 1 = 0 := (advanceLoop_phase_final_iff c s).mp ht
        rw [hz] at hoff'
        exact ⟨c.toNat, hr, hz, hoff'⟩ }

/-! ### The cases of a step -/

/-- Every step of a running command keeps the invariant. -/
theorem Move.keeps_inv {i : Instr} {s t : State} (m : Move i s t) (h : s.Inv) (hb : s.busy = true)
    (hc : current s = .ok i) : t.Inv := by
  cases m with
  | lenError => exact h.of_command_end rfl rfl rfl (status_fail_errorLegal _ _)
  | operandError => exact h.of_command_end rfl rfl rfl (status_fail_errorLegal _ _)
  | done r => exact h.of_command_end rfl rfl rfl (status_complete_errorLegal _)
  | donePair r => exact h.of_command_end rfl rfl rfl (status_complete_errorLegal _)
  | final32 r => exact h.of_command_end rfl rfl rfl (status_complete_errorLegal _)
  | final64 r => exact h.of_command_end rfl rfl rfl (status_complete_errorLegal _)
  | start32 w hi hp hn hm =>
    subst hi
    have hr : runningChunk s = some 20 := (runningChunk_hash32_iff hc 20).mpr ⟨rfl, hn, hm⟩
    exact startLoop_keeps_inv (s := { s with work32 := w }) h.with_unread hb hr (by omega) (by dsimp only; omega)
  | start64 w hi hp hn hm =>
    have hr : runningChunk s = some 64 := (runningChunk_hash64_iff hi hc 64).mpr ⟨rfl, hn, hm⟩
    exact startLoop_keeps_inv (s := { s with work64 := w }) h.with_unread hb hr (by omega) (by dsimp only; omega)
  | loop32 w hi hp =>
    subst hi
    obtain ⟨c, hr, -⟩ := h.loopRunsLongDigest hp
    obtain ⟨rfl, -⟩ := (runningChunk_hash32_iff hc c).mp hr
    exact advanceLoop_keeps_inv (s := { s with work32 := w }) h.with_unread hp hr
  | loop64 w hi hp =>
    obtain ⟨c, hr, -⟩ := h.loopRunsLongDigest hp
    obtain ⟨rfl, -⟩ := (runningChunk_hash64_iff hi hc c).mp hr
    exact advanceLoop_keeps_inv (s := { s with work64 := w }) h.with_unread hp hr

theorem engineStep_keeps_inv {s t : State} (h : s.Inv) (hs : engineStep s = .next t) : t.Inv := by
  rcases engineStep_cases hs with ⟨-, rfl⟩ | ⟨-, e, -, -, rfl⟩ | ⟨hp, i, hc, m⟩
  · exact h
  · exact h.of_command_end rfl rfl rfl (status_fail_errorLegal _ _)
  · exact m.keeps_inv h ((busy_iff s).mpr hp) hc

theorem RegMove.keeps_inv {s t : State} (m : RegMove s t) (h : s.Inv) : t.Inv := by
  cases m with
  | same => exact h
  | drop => exact dropWrite_keeps_inv h
  | accept word => exact accept_keeps_inv word h
  | status v => exact h.with_status (fun hd => by simp [hd]) rfl rfl
  | irqen b => exact h.with_unread
  | operand r => exact h.with_unread

theorem HostMove.keeps_inv {s t : State} {x : HostTxn} (m : HostMove s x t) (h : s.Inv) : t.Inv := by
  cases m with
  | regWrite off v => exact (regWriteAt_moves off v s).keeps_inv h
  | regRead off => exact h.with_unread
  | bufDrop a b => exact dropWrite_keeps_inv h
  | bufWrite a b hb ha => exact writeByte_keeps_inv h b ha
  | bufRead a v k => exact h.with_unread

/-- Every step of the machine keeps the invariant: the engine's steps, host accesses, reset and polling. -/
theorem step_keeps_inv {s t : State} (h : s.Inv) (hs : step s = .next t) : t.Inv := by
  rcases step_cases hs with ⟨-, he⟩ | ⟨rest, -, he⟩ | ⟨x, rest, -, m⟩ | ⟨rest, -, rfl⟩ | ⟨rest, -, rfl⟩
  · exact engineStep_keeps_inv h he
  · exact engineStep_keeps_inv h.with_unread he
  · exact m.keeps_inv h.with_unread
  · exact applyReset_keeps_inv h.with_unread
  · exact pollDone_keeps_inv h.with_unread

/-! ### The obligations -/

/-- Settles O52: by the cases of a step, each of which keeps the invariant. -/
theorem everyStepKeepsInvariant : Obligations.EveryStepKeepsInvariant := by
  unfold Obligations.EveryStepKeepsInvariant
  exact fun s t h hs => step_keeps_inv h hs

/-- Settles O51: the engine is idle after reset, with odd constants and an empty INBUF. -/
theorem invariantHoldsAtReset : Obligations.InvariantHoldsAtReset := by
  unfold Obligations.InvariantHoldsAtReset
  exact .of_idle (by decide) reset_memory_wf (by decide) rfl (by decide)

end Sys2Proof.Machine
end

section
/-! SUPPORT. Frames: what an engine step leaves unchanged and how it leaves the command (10_state.md R28, 60_exceptions.md
R136, R137), and what a host access or `wait` leaves unchanged of a running command (R141). Each is said once over the case
lists `Move`, `RegMove` and `HostMove`. -/

namespace Sys2Proof.Machine

/-! ### The frame of an engine step -/

/-- What every engine step leaves alone: the parameters, the host's registers and WDROP, the latched copies, INBUF, and the
model's record of the host port. -/
structure EngineFrame (s t : State) : Prop where
  params : t.params = s.params
  regs : t.regs = s.regs
  latched : t.latched = s.latched
  opcodeL : t.opcodeL = s.opcodeL
  cmdrsvL : t.cmdrsvL = s.cmdrsvL
  doneIe : t.doneIe = s.doneIe
  inbuf : t.inbuf = s.inbuf
  events : t.events = s.events
  hostData : t.hostData = s.hostData
  wdrop : t.status.wdrop = s.status.wdrop

/-- How a step leaves a running command: ended with an error, which keeps the results (R136); completed (R137); or still
running, with STATUS and the results of before (70_reset_and_hazards.md R159). -/
inductive StepEnd (s t : State) : Prop where
  | failed (e : CmdError) (phase : t.phase = .idle) (status : t.status = s.status.fail e)
      (result : t.result = s.result) (resultHi : t.resultHi = s.resultHi)
  | completed (phase : t.phase = .idle) (status : t.status = s.status.complete)
  | running (busy : t.busy = true) (status : t.status = s.status)
      (result : t.result = s.result) (resultHi : t.resultHi = s.resultHi)

theorem raiseError_engineFrame (e : CmdError) (s : State) : EngineFrame s (raiseError e s) := by
  constructor <;> rfl

theorem raiseError_stepEnd (e : CmdError) (s : State) : StepEnd s (raiseError e s) := .failed e rfl rfl rfl rfl

@[simp] theorem startLoop_busy (c : U64) (s : State) : (startLoop c s).busy = true := rfl

@[simp] theorem advanceLoop_busy (c : U64) (s : State) : (advanceLoop c s).busy = true := by
  rw [busy_iff, advanceLoop_phase]
  split <;> decide

section
variable {i : Instr} {s t : State}

theorem Move.engineFrame (m : Move i s t) : EngineFrame s t := by
  cases m <;> constructor <;> rfl

theorem Move.stepEnd (m : Move i s t) : StepEnd s t := by
  cases m with
  | lenError => exact raiseError_stepEnd _ s
  | operandError => exact raiseError_stepEnd _ s
  | done => exact .completed rfl rfl
  | donePair => exact .completed rfl rfl
  | final32 => exact .completed rfl rfl
  | final64 => exact .completed rfl rfl
  | start32 => exact .running rfl rfl rfl rfl
  | start64 => exact .running rfl rfl rfl rfl
  | loop32 => exact .running (advanceLoop_busy _ _) rfl rfl rfl
  | loop64 => exact .running (advanceLoop_busy _ _) rfl rfl rfl

/-- Only the two WEAKHASH commands have a 128-bit result (60_exceptions.md R137). -/
theorem Move.resultHi (m : Move i s t) (hw : i ≠ .weakhash) (hm : i ≠ .weakhashMem) : t.resultHi = s.resultHi := by
  cases m with
  | donePair r h => exact absurd h (not_or.mpr ⟨hw, hm⟩)
  | _ => rfl

/-- H, G, F are HASH32's alone (10_state.md R31). -/
theorem Move.work32 (m : Move i s t) (h32 : i ≠ .hash32) : t.work32 = s.work32 := by
  cases m with
  | start32 w hi | loop32 w hi | final32 r hi => exact absurd hi h32
  | _ => rfl

/-- X, Y, Z, V, W are the Hash64 family's alone (10_state.md R32). -/
theorem Move.work64 (m : Move i s t) (h64 : isHash64 i = false) : t.work64 = s.work64 := by
  cases m with
  | start64 w hi | loop64 w hi | final64 r hi => simp [h64] at hi
  | _ => rfl

/-- Only a long digest counts chunks and frees its working registers (10_state.md R33). -/
theorem Move.counters (m : Move i s t) (h32 : i ≠ .hash32) (h64 : isHash64 i = false) :
    t.off = s.off ∧ t.iters = s.iters ∧ t.draws = s.draws := by
  cases m with
  | start32 w hi | loop32 w hi | final32 r hi => exact absurd hi h32
  | start64 w hi | loop64 w hi | final64 r hi => simp [h64] at hi
  | _ => exact ⟨rfl, rfl, rfl⟩

/-! ### What follows from the end of a step -/

/-- A step that leaves the engine BUSY leaves STATUS and the results as they were (R159). -/
theorem StepEnd.stale_of_busy (h : StepEnd s t) (hb : t.busy = true) :
    t.result = s.result ∧ t.resultHi = s.resultHi ∧ t.status = s.status := by
  cases h with
  | failed e hp => exact absurd hp ((busy_iff t).mp hb)
  | completed hp => exact absurd hp ((busy_iff t).mp hb)
  | running _ hs hr hh => exact ⟨hr, hh, hs⟩

/-- With ERR = 1 the results are those of before (R136). -/
theorem StepEnd.results_of_err (h : StepEnd s t) (he : t.status.err = true) :
    t.result = s.result ∧ t.resultHi = s.resultHi := by
  cases h with
  | failed e _ _ hr hh => exact ⟨hr, hh⟩
  | completed _ hs => simp [hs] at he
  | running _ _ hr hh => exact ⟨hr, hh⟩

/-- A command that has ended shows DONE = 1 (R136, R137). -/
theorem StepEnd.done_of_idle (h : StepEnd s t) (hb : t.busy = false) : t.status.done = true := by
  cases h with
  | failed e _ hs => rw [hs, status_fail_done]
  | completed _ hs => rw [hs, status_complete_done]
  | running hrun => simp [hb] at hrun

theorem engineStep_engineFrame (h : engineStep s = .next t) : EngineFrame s t := by
  rcases engineStep_cases h with ⟨-, rfl⟩ | ⟨-, e, -, -, rfl⟩ | ⟨-, i, -, m⟩
  · constructor <;> rfl
  · exact raiseError_engineFrame e s
  · exact m.engineFrame

theorem engineStep_stepEnd (hb : s.busy = true) (h : engineStep s = .next t) : StepEnd s t := by
  rcases engineStep_cases h with ⟨hp, -⟩ | ⟨-, e, -, -, rfl⟩ | ⟨-, i, -, m⟩
  · exact absurd hp ((busy_iff s).mp hb)
  · exact raiseError_stepEnd e s
  · exact m.stepEnd

end

/-- Settles O50: the fields an engine step leaves alone, how it leaves the command, and whose working registers it uses. -/
theorem commandFrame : Obligations.CommandFrame := by
  unfold Obligations.CommandFrame
  intro i s t h
  have m := exec_moves h
  have f := m.engineFrame
  exact ⟨f.params, f.regs, f.latched, f.opcodeL, f.cmdrsvL, f.doneIe, f.events, f.hostData, f.wdrop,
    fun a => by rw [f.inbuf], f.inbuf, m.resultHi, m.stepEnd.stale_of_busy, m.stepEnd.results_of_err,
    m.stepEnd.done_of_idle, m.work32, m.work64, m.counters⟩

/-! ### The frame of a host access -/

/-- What a host access or `wait` leaves alone while a command runs (R141): the latched copies, the engine's own registers,
the results, the error fields, INBUF (70_reset_and_hazards.md R157) and the parameters. -/
structure RunningFrame (s t : State) : Prop where
  params : t.params = s.params
  result : t.result = s.result
  resultHi : t.resultHi = s.resultHi
  latched : t.latched = s.latched
  opcodeL : t.opcodeL = s.opcodeL
  cmdrsvL : t.cmdrsvL = s.cmdrsvL
  phase : t.phase = s.phase
  work32 : t.work32 = s.work32
  work64 : t.work64 = s.work64
  off : t.off = s.off
  iters : t.iters = s.iters
  inbuf : t.inbuf = s.inbuf
  err : t.status.err = s.status.err
  errcode : t.status.errcode = s.status.errcode

section
variable {s t : State} {x : HostTxn}

theorem RegMove.runningFrame (m : RegMove s t) (hb : s.busy = true) : RunningFrame s t := by
  cases m with
  | accept word hidle => simp [hb] at hidle
  | _ => constructor <;> rfl

theorem HostMove.runningFrame (m : HostMove s x t) (hb : s.busy = true) : RunningFrame s t := by
  cases m with
  | regWrite off v => exact (regWriteAt_moves off v s).runningFrame hb
  | bufWrite a b hidle => simp [hb] at hidle
  | _ => constructor <;> rfl

theorem pollDone_runningFrame (s : State) : RunningFrame s (pollDone s) := by
  simp only [pollDone]
  split <;> constructor <;> rfl

theorem RegMove.params (m : RegMove s t) : t.params = s.params := by
  cases m <;> rfl

theorem HostMove.params (m : HostMove s x t) : t.params = s.params := by
  cases m with
  | regWrite off v => exact (regWriteAt_moves off v s).params
  | _ => rfl

/-! ### The frame of a step -/

/-- No step changes the parameters (00_scope.md R13). -/
theorem step_params (h : step s = .next t) : t.params = s.params := by
  rcases step_cases h with ⟨-, he⟩ | ⟨rest, -, he⟩ | ⟨x, rest, -, m⟩ | ⟨rest, -, rfl⟩ | ⟨rest, -, rfl⟩
  · exact (engineStep_engineFrame he).params
  · exact (engineStep_engineFrame he).params
  · exact m.params
  · rfl
  · exact (pollDone_runningFrame _).params

/-- A step from a BUSY state that is no reset is the engine's, or one that leaves the running command alone. -/
theorem step_cases_of_busy (hb : s.busy = true) (hr : ∀ rest, s.events ≠ .reset :: rest) (h : step s = .next t) :
    ((s.events = [] ∨ ∃ rest, s.events = .engine :: rest) ∧
      ∃ es, engineStep { s with events := es } = .next t) ∨
    RunningFrame s t := by
  rcases step_cases h with ⟨he, hs⟩ | ⟨rest, he, hs⟩ | ⟨x, rest, -, m⟩ | ⟨rest, he, -⟩ | ⟨rest, -, rfl⟩
  · exact .inl ⟨.inl he, s.events, hs⟩
  · exact .inl ⟨.inr ⟨rest, he⟩, rest, hs⟩
  · exact .inr { m.runningFrame hb with }
  · exact absurd he (hr rest)
  · exact .inr { pollDone_runningFrame { s with events := rest } with }

end

/-- Settles O5: `writeReg` ignores a write of MAXLEN, and each case of a step keeps the parameters. -/
theorem maxlenIsAConstant : Obligations.MaxlenIsAConstant := by
  unfold Obligations.MaxlenIsAConstant
  exact ⟨fun _ _ => ⟨rfl, rfl⟩, fun _ _ => step_params⟩

/-- Settles O55: the engine's own step leaves the latched copies and INBUF alone and ends the command with DONE = 1;
any other step but reset leaves the running command alone. -/
theorem runningCommandIsNotDisturbed : Obligations.RunningCommandIsNotDisturbed := by
  unfold Obligations.RunningCommandIsNotDisturbed
  intro s t hb hr h
  rcases step_cases_of_busy hb hr h with ⟨hev, es, he⟩ | f
  · have f := engineStep_engineFrame he
    have hnot : ¬((∃ x rest, s.events = .host x :: rest) ∨ ∃ rest, s.events = .wait :: rest) := by
      rcases hev with hev | ⟨_, hev⟩ <;> simp [hev]
    exact ⟨f.latched, f.opcodeL, f.cmdrsvL, f.inbuf,
      fun hi => ⟨(engineStep_stepEnd (s := { s with events := es }) hb he).done_of_idle hi, hev⟩,
      fun hx => absurd hx hnot⟩
  · have hrun : t.busy = true := (busy_iff t).mpr (f.phase ▸ (busy_iff s).mp hb)
    exact ⟨f.latched, f.opcodeL, f.cmdrsvL, f.inbuf, fun hi => by simp [hrun] at hi,
      fun _ => ⟨f.phase, f.work32, f.work64, f.off, f.iters, f.result, f.resultHi, f.params, f.err, f.errcode⟩⟩

end Sys2Proof.Machine
end

section
/-! SUPPORT. The register window as the host sees it (10_state.md section 1): where each register stands, the reserved
offsets (R27), the register values after reset (R36), and the words of STATUS and IRQEN (R23, R24). -/

namespace Sys2Proof.Machine

/-! ### The map -/

@[simp] theorem regAt_offsetOf (r : HostReg) : regAt (offsetOf r) = some r := (regAt_eq_some_iff _ r).mpr rfl

theorem offsetOf_inInterface (r : HostReg) : inInterface (offsetOf r) 8 = true := by
  cases r <;> rfl

/-- MAXLEN stands highest. -/
theorem offsetOf_le (r : HostReg) : offsetOf r ≤ 0x70 := by
  cases r <;> decide

/-- No register stands above MAXLEN (R27). -/
theorem regAt_eq_none_of_reserved {off : Nat} (h : 0x70 < off) : regAt off = none := by
  rw [Option.eq_none_iff_forall_ne_some]
  rintro r hr
  rw [(regAt_eq_some_iff off r).mp hr] at h
  exact absurd (offsetOf_le r) (Nat.not_le.mpr h)

/-- What a register reads as does not depend on what is still to come. -/
@[simp] theorem readReg_with_events (r : HostReg) (s : State) (es : List Event) :
    readReg r { s with events := es } = readReg r s := by
  cases r <;> rfl

theorem step_regRead {s : State} {off : Nat} {rest : List Event} (hf : inInterface off 8 = true)
    (h : s.events = .host (.regRead off 8) :: rest) :
    step s = .next { s with events := rest, hostData := regReadAt off { s with events := rest } } := by
  simp [step_host h, hostAccess, hf]

theorem step_regWrite {s : State} {off : Nat} {v : U64} {rest : List Event} (hf : inInterface off 8 = true)
    (h : s.events = .host (.regWrite off 8 v) :: rest) :
    step s = .next (regWriteAt off v { s with events := rest }) := by
  simp [step_host h, hostAccess, hf]

/-- Settles O6: the window's map is one to one, and `readReg` and `writeReg` have one case for each register. -/
theorem registerWindowMap : Obligations.RegisterWindowMap := by
  unfold Obligations.RegisterWindowMap
  refine ⟨fun s rest r h => ?_, fun s rest r v h => ?_, rfl, fun s v => ⟨rfl, rfl, rfl⟩, fun s => ?_, fun s v => ?_⟩
  · rw [step_regRead (offsetOf_inInterface r) h]
    simp [regReadAt]
  · rw [step_regWrite (offsetOf_inInterface r) h]
    simp [regWriteAt]
  · exact ⟨rfl, rfl, rfl, rfl, rfl, rfl, rfl, rfl, rfl, rfl, rfl⟩
  · exact ⟨rfl, rfl, rfl, rfl, rfl, rfl, rfl, rfl, rfl⟩

/-- Settles O4: the reserved offsets are aligned, inside the window and above every register. -/
theorem reservedOffsetsReadZeroIgnoreWrites : Obligations.ReservedOffsetsReadZeroIgnoreWrites := by
  unfold Obligations.ReservedOffsetsReadZeroIgnoreWrites
  intro s rest off halign hlo hhi
  have hf : inInterface off 8 = true := (inInterface_iff off 8).mpr ⟨rfl, halign, by omega⟩
  have hnone : regAt off = none := regAt_eq_none_of_reserved (by omega)
  refine ⟨fun v h => ?_, fun h => ?_⟩
  · rw [step_regWrite hf h, regWriteAt, hnone]
  · rw [step_regRead hf h, regReadAt, hnone]

/-! ### Reset -/

/-- With the reset values of R36 every register but MAXLEN reads 0. -/
theorem readReg_eq_zero {s : State} (hregs : s.regs = OperandRegs.zero) (hstatus : s.status = Status.zero)
    (hie : s.doneIe = false) (hlo : s.result = 0) (hhi : s.resultHi = 0) (hp : s.phase = .idle) {r : HostReg}
    (hr : r ≠ .maxlen) : readReg r s = 0 := by
  cases r with
  | maxlen => exact absurd rfl hr
  | cmd => rfl
  | status =>
    simp only [readReg, statusWord, State.busy, hstatus, hp]
    rfl
  | irqen =>
    simp only [readReg, irqenWord, hie]
    rfl
  | result => exact hlo
  | resultHi => exact hhi
  | _ => simp only [readReg, hregs]; rfl

/-- Settles O2: each register has the value of R36, and INBUF has no written mark. -/
theorem stateAfterReset : Obligations.StateAfterReset := by
  unfold Obligations.StateAfterReset
  exact ⟨fun r => readReg_eq_zero rfl rfl rfl rfl rfl rfl, rfl, rfl, rfl, fun a => readByte_clearMarks ⟨[], []⟩ a⟩

/-! ### STATUS and IRQEN -/

theorem busy_eq_decide (s : State) : s.busy = decide (s.phase ≠ .idle) := by
  rw [Bool.eq_iff_iff, busy_iff, decide_eq_true_iff]

/-- ERRCODE stands in bits 15:8 of STATUS (R23). -/
theorem statusWord_errcode (s : State) : (statusWord s).extractLsb' 8 8 = s.status.errcode := by
  refine BitVec.eq_of_getLsbD_eq fun k hk => ?_
  rw [BitVec.getLsbD_extractLsb', statusWord_getLsbD, if_neg (by omega), if_neg (by omega), if_neg (by omega),
    if_neg (by omega), if_neg (by omega), Nat.add_sub_cancel_left, decide_eq_true hk, Bool.true_and]

/-- Bits 7:4 and 63:16 of STATUS are reserved and read 0 (R23). -/
theorem statusWord_reserved (s : State) {k : Nat} (hk : (4 ≤ k ∧ k ≤ 7) ∨ 16 ≤ k) :
    (statusWord s).getLsbD k = false := by
  rw [statusWord_getLsbD, if_neg (by omega), if_neg (by omega), if_neg (by omega), if_neg (by omega)]
  split
  · rfl
  · exact BitVec.getLsbD_of_ge _ _ (by omega)

/-- Settles O7: the bits of STATUS one by one; its legal states are two clauses of the invariant. -/
theorem statusLayoutAndWriteOneToClear : Obligations.StatusLayoutAndWriteOneToClear := by
  unfold Obligations.StatusLayoutAndWriteOneToClear
  intro s
  have hbusy : (readReg .status s).getLsbD 0 = s.busy := statusWord_getLsbD s 0
  exact ⟨hbusy.trans (busy_eq_decide s), statusWord_getLsbD s 1, statusWord_getLsbD s 2, statusWord_getLsbD s 3,
    statusWord_errcode s, fun _ => statusWord_reserved s, fun _ => rfl,
    fun hinv => ⟨hinv.errcodeLegal.2.mp, fun hb => hinv.busyStatus (hbusy.symm.trans hb)⟩⟩

/-- Settles O8: the bits of IRQEN, and `irq` as DONE and DONE_IE. -/
theorem interruptEnableAndLine : Obligations.InterruptEnableAndLine := by
  unfold Obligations.InterruptEnableAndLine
  intro s v
  have hie : (readReg .irqen s).getLsbD 0 = s.doneIe := irqenWord_getLsbD s 0
  have hdone : (readReg .status s).getLsbD 1 = s.status.done := statusWord_getLsbD s 1
  refine ⟨hie, fun k hk => (irqenWord_getLsbD s k).trans ?_, rfl, ?_⟩
  · rw [decide_eq_false (by omega), Bool.false_and]
  · rw [hdone, hie, irq]

end Sys2Proof.Machine
end

section
/-! SUPPORT. INBUF as the host and the commands see it (20_memory.md): the host's byte accesses case by case (R46, R48),
and that a command's step reads nothing outside [0, n) (R45): two INBUFs that agree there give every reading function the
same value, so the step is the same but for INBUF itself. -/

namespace Sys2Proof.Machine

/-! ### The host's byte accesses -/

theorem bufWrite_of_idle {a : Nat} {s : State} (b : U8) (ha : a < s.params.maxlen.toNat) (hb : s.busy = false) :
    bufWrite a b s = { s with inbuf := s.inbuf.writeByte a b } := by
  simp [bufWrite, hb, ha]

theorem bufWrite_of_dropped {a : Nat} {s : State} (b : U8) (h : s.params.maxlen.toNat ≤ a ∨ s.busy = true) :
    bufWrite a b s = dropWrite s := by
  rcases h with h | h <;> simp [bufWrite, h]

theorem bufRead_of_outside {a : Nat} {s : State} (ha : s.params.maxlen.toNat ≤ a) :
    bufRead a s = { s with hostData := 0 } := by
  simp [bufRead, ha]

theorem bufRead_of_written {a : Nat} {s : State} {b : U8} (ha : a < s.params.maxlen.toNat)
    (hr : s.inbuf.readByte a = some b) : bufRead a s = { s with hostData := b.setWidth 64 } := by
  simp [bufRead, Nat.not_le.mpr ha, hr]

theorem bufRead_of_unwritten {a : Nat} {s : State} (ha : a < s.params.maxlen.toNat) (hr : s.inbuf.readByte a = none) :
    bufRead a s = { s with hostData := (Config.freeByte s.draws).setWidth 64, draws := s.draws + 1 } := by
  simp [bufRead, Nat.not_le.mpr ha, hr]

/-- Settles O10: what a read access can answer differs from the state before it in `hostData` and `draws` alone. -/
theorem hostReadsHaveNoSideEffect : Obligations.HostReadsHaveNoSideEffect := by
  unfold Obligations.HostReadsHaveNoSideEffect
  intro s u rest off width a hev h
  rcases hev with hev | hev
  · rw [step_host hev] at h
    cases hostAccess_moves h with
    | regRead => rfl
  · rw [step_host hev] at h
    cases hostAccess_moves h with
    | bufRead => rfl

/-- Settles O11: the two cases of a byte write and the three of a byte read. -/
theorem inbufHostAccess : Obligations.InbufHostAccess := by
  unfold Obligations.InbufHostAccess
  intro s rest a
  refine ⟨fun b hev => ⟨bufWrite a b { s with events := rest }, step_host hev, fun ha hb => ?_, fun h => ?_⟩,
    fun hev => ⟨bufRead a { s with events := rest }, step_host hev, fun ha => ?_, fun b ha hr => ?_, fun ha hr => ?_⟩⟩
  · rw [bufWrite_of_idle (s := { s with events := rest }) b ha hb]
    exact ⟨readByte_writeByte_same _ a b, fun a' hne => readByte_writeByte_other _ a a' b hne, rfl⟩
  · exact bufWrite_of_dropped (s := { s with events := rest }) b h
  · exact bufRead_of_outside (s := { s with events := rest }) ha
  · exact bufRead_of_written (s := { s with events := rest }) ha hr
  · exact ⟨_, _, bufRead_of_unwritten (s := { s with events := rest }) ha hr⟩

/-! ### Two INBUFs that agree on [0, n) -/

/-- The two memories read alike at every address below `n`. -/
def Memory.agreesBelow (m m' : Memory) (n : Nat) : Prop := ∀ a, a < n → m.readByte a = m'.readByte a

section
variable {m m' : Memory} {n off : Nat}

theorem memRead_of_agreesBelow {k : Nat} (h : m.agreesBelow m' n) (hk : off + k ≤ n) :
    memRead m off k = memRead m' off k :=
  memRead_congr m m' k off fun _ _ => h _ (by omega)

theorem fetch8_of_agreesBelow (h : m.agreesBelow m' n) (hk : off + 1 ≤ n) : fetch8 m off = fetch8 m' off := by
  rw [fetch8, memRead_of_agreesBelow h hk, fetch8]

theorem fetch32_of_agreesBelow (h : m.agreesBelow m' n) (hk : off + 4 ≤ n) : fetch32 m off = fetch32 m' off := by
  rw [fetch32, memRead_of_agreesBelow h hk, fetch32]

theorem fetch64_of_agreesBelow (h : m.agreesBelow m' n) (hk : off + 8 ≤ n) : fetch64 m off = fetch64 m' off := by
  rw [fetch64, memRead_of_agreesBelow h hk, fetch64]

theorem weakHashMem_of_agreesBelow (a b : U64) (h : m.agreesBelow m' n) (hk : off + 32 ≤ n) :
    weakHashMem m off a b = weakHashMem m' off a b := by
  simp (disch := omega) only [weakHashMem, fetch64_of_agreesBelow h]

end

/-! ### What the digests read (41_hash32.md, 42_hash64.md) -/

/-- The middle word of `hash32Len5to12` starts at 0 below 8 bytes and at 4 from 8 bytes on (R99). -/
theorem hash32_middle_word_inside {n : Nat} (hlo : 5 ≤ n) (hhi : n ≤ 12) : (n / 2 &&& 4) + 4 ≤ n := by
  interval_cases n <;> decide

section
variable {m m' : Memory} {p : Params} {n : U64} (h : m.agreesBelow m' n.toNat)
include h

theorem hash32Fold_of_agreesBelow {k i : Nat} (b c : U32) (hk : i + k ≤ n.toNat) :
    hash32Fold p m i k b c = hash32Fold p m' i k b c := by
  induction k generalizing i b c with
  | zero => rfl
  | succ k ih =>
    have hrest : ∀ b c, hash32Fold p m (i + 1) k b c = hash32Fold p m' (i + 1) k b c := fun b c => ih b c (by omega)
    simp only [hash32Fold, fetch8_of_agreesBelow h (show i + 1 ≤ n.toNat by omega), hrest]

theorem hash32Short_of_agreesBelow (hn : n.toNat ≤ 24) : hash32Short p m n = hash32Short p m' n := by
  unfold hash32Short
  split
  · rw [hash32Len0to4, hash32Fold_of_agreesBelow h 0 9 (Nat.zero_add _).le, hash32Len0to4]
  · split
    · have hmid := hash32_middle_word_inside (show 5 ≤ n.toNat by omega) (by omega)
      simp (disch := omega) only [hash32Len5to12, fetch32_of_agreesBelow h]
    · simp (disch := omega) only [hash32Len13to24, fetch32_of_agreesBelow h]

theorem hash32Init_of_agreesBelow (hn : 25 ≤ n.toNat) : hash32Init p m n = hash32Init p m' n := by
  simp (disch := omega) only [hash32Init, fetch32_of_agreesBelow h]

theorem hash32Chunk_of_agreesBelow {off : Nat} (w : Work32) (hoff : off + 20 ≤ n.toNat) :
    hash32Chunk p m off w = hash32Chunk p m' off w := by
  simp (disch := omega) only [hash32Chunk, fetch32_of_agreesBelow h]

theorem hashLen0to16_of_agreesBelow : hashLen0to16 p m n = hashLen0to16 p m' n := by
  unfold hashLen0to16
  split
  · simp (disch := omega) only [hashLen9to16, fetch64_of_agreesBelow h]
  · split
    · simp (disch := omega) only [hashLen4to8, fetch32_of_agreesBelow h]
    · split
      · simp (disch := omega) only [hashLen1to3, fetch8_of_agreesBelow h]
      · rfl

theorem hash64Short_of_agreesBelow (hn : n.toNat ≤ 64) : hash64Short p m n = hash64Short p m' n := by
  unfold hash64Short
  split
  · exact hashLen0to16_of_agreesBelow h
  · split
    · simp (disch := omega) only [hashLen17to32, fetch64_of_agreesBelow h]
    · simp (disch := omega) only [hashLen33to64, frontView, backView, fetch64_of_agreesBelow h]

theorem hash64Init_of_agreesBelow (hn : 65 ≤ n.toNat) : hash64Init p m n = hash64Init p m' n := by
  simp (disch := omega) only [hash64Init, fetch64_of_agreesBelow h, weakHashMem_of_agreesBelow _ _ h]

theorem hash64Chunk_of_agreesBelow {off : Nat} (w : Work64) (hoff : off + 64 ≤ n.toNat) :
    hash64Chunk p m off w = hash64Chunk p m' off w := by
  simp (disch := omega) only [hash64Chunk, fetch64_of_agreesBelow h, weakHashMem_of_agreesBelow _ _ h]

end

/-! ### A command's step with another INBUF -/

/-- INBUF replaced by another. -/
def State.withInbuf (m : Memory) (s : State) : State := { s with inbuf := m }

/-- In LOOP the chunk at OFF lies inside the input (R103, R119): at least one chunk is left. -/
theorem State.Inv.chunk_inside {s : State} (hs : s.Inv) (hp : s.phase = .loop) :
    ∃ c, runningChunk s = some c ∧ s.off.toNat + c ≤ s.latched.len.toNat := by
  obtain ⟨c, hr, hiters, hoff⟩ := hs.loopRunsLongDigest hp
  have hone : c * 1 ≤ c * s.iters.toNat := Nat.mul_le_mul_left c hiters
  have hall : c * ((s.latched.len.toNat - 1) / c) ≤ s.latched.len.toNat - 1 := Nat.mul_div_le _ _
  exact ⟨c, hr, by omega⟩

section
variable {m : Memory} {s : State}

/-- A continuation that leaves INBUF alone, after a read that has the same value in both memories. -/
theorem readOrFault_withInbuf {α : Type} {read read' : Option α} {k k' : α → State} (hr : read' = read)
    (hk : ∀ a, k' a = (k a).withInbuf m) : readOrFault read' k' = mapNext (State.withInbuf m) (readOrFault read k) := by
  rw [mapNext_readOrFault, hr, funext hk]

theorem checkLen_withInbuf {k k' : Result} (hk : k' = mapNext (State.withInbuf m) k) :
    checkLen (s.withInbuf m) k' = mapNext (State.withInbuf m) (checkLen s k) := by
  rw [mapNext_checkLen (s := s) (s' := s.withInbuf m) k rfl rfl, hk]

/-- A memory primitive whose read has the same value in both memories wherever its operand passes the check (R83). -/
theorem memoryPrimitive_withInbuf {α : Type} {off : U64} {w : Nat} {read read' : Option α} {k k' : α → State}
    (hr : off.toNat + w ≤ s.latched.len.toNat → read' = read) (hk : ∀ a, k' a = (k a).withInbuf m) :
    checkLen (s.withInbuf m) (checkOperand (pastBound off w s) (s.withInbuf m) (readOrFault read' k')) =
      mapNext (State.withInbuf m) (checkLen s (checkOperand (pastBound off w s) s (readOrFault read k))) := by
  refine checkLen_withInbuf ?_
  rw [mapNext_checkOperand (s := s) (s' := s.withInbuf m) _ _ rfl]
  by_cases hin : off.toNat + w ≤ s.latched.len.toNat
  · rw [readOrFault_withInbuf (hr hin) hk]
  · have hpast (c : Result) := checkOperand_of_past (s := s.withInbuf m) (off := off) c (Nat.lt_of_not_le hin)
    exact (hpast _).trans (hpast _).symm

variable (h : m.agreesBelow s.inbuf s.latched.len.toNat)
include h

theorem hash32Setup_withInbuf : hash32Setup (s.withInbuf m) = mapNext (State.withInbuf m) (hash32Setup s) := by
  refine checkLen_withInbuf ?_
  rw [mapNext_ite]
  exact ite_congr rfl
    (fun hn => readOrFault_withInbuf (hash32Short_of_agreesBelow h hn) fun _ => rfl)
    (fun hn => readOrFault_withInbuf (hash32Init_of_agreesBelow h (Nat.lt_of_not_le hn)) fun _ => rfl)

theorem hash64Setup_withInbuf (post : U64 → U64) :
    hash64Setup post (s.withInbuf m) = mapNext (State.withInbuf m) (hash64Setup post s) := by
  refine checkLen_withInbuf ?_
  rw [mapNext_ite]
  exact ite_congr rfl
    (fun hn => readOrFault_withInbuf (hash64Short_of_agreesBelow h hn) fun _ => rfl)
    (fun hn => readOrFault_withInbuf (hash64Init_of_agreesBelow h (Nat.lt_of_not_le hn)) fun _ => rfl)

theorem execHash32_withInbuf (hloop : s.phase = .loop → s.off.toNat + 20 ≤ s.latched.len.toNat) :
    execHash32 (s.withInbuf m) = mapNext (State.withInbuf m) (execHash32 s) := by
  have hphase : (s.withInbuf m).phase = s.phase := rfl
  unfold execHash32
  rw [hphase]
  split
  case h_1 | h_2 => exact hash32Setup_withInbuf h
  case h_3 hp => exact readOrFault_withInbuf (hash32Chunk_of_agreesBelow h s.work32 (hloop hp)) fun _ => rfl
  case h_4 => rfl

theorem hash64Step_withInbuf (post : U64 → U64)
    (hloop : s.phase = .loop → s.off.toNat + 64 ≤ s.latched.len.toNat) :
    hash64Step post (s.withInbuf m) = mapNext (State.withInbuf m) (hash64Step post s) := by
  have hphase : (s.withInbuf m).phase = s.phase := rfl
  unfold hash64Step
  rw [hphase]
  split
  case h_1 | h_2 => exact hash64Setup_withInbuf h post
  case h_3 hp => exact readOrFault_withInbuf (hash64Chunk_of_agreesBelow h s.work64 (hloop hp)) fun _ => rfl
  case h_4 => rfl

end

/-- A command's step reads INBUF below L(LEN) only: another INBUF that agrees there gives the same step, and stays. -/
theorem exec_withInbuf {i : Instr} {s : State} {m : Memory} (hs : s.Inv) (hc : current s = .ok i)
    (h : m.agreesBelow s.inbuf s.latched.len.toNat) :
    exec i (s.withInbuf m) = mapNext (State.withInbuf m) (exec i s) := by
  have hchunk64 (hi : isHash64 i = true) (hp : s.phase = .loop) : s.off.toNat + 64 ≤ s.latched.len.toNat := by
    obtain ⟨c, hr, hin⟩ := hs.chunk_inside hp
    obtain ⟨rfl, -⟩ := (runningChunk_hash64_iff hi hc c).mp hr
    exact hin
  cases i with
  | hash32 =>
    refine execHash32_withInbuf h fun hp => ?_
    obtain ⟨c, hr, hin⟩ := hs.chunk_inside hp
    obtain ⟨rfl, -⟩ := (runningChunk_hash32_iff hc c).mp hr
    exact hin
  | hash64 | hash64Seed | hash64Seeds => exact hash64Step_withInbuf h _ (hchunk64 rfl)
  | fetch8 => exact memoryPrimitive_withInbuf (fetch8_of_agreesBelow h) fun _ => rfl
  | fetch32 => exact memoryPrimitive_withInbuf (fetch32_of_agreesBelow h) fun _ => rfl
  | fetch64 => exact memoryPrimitive_withInbuf (fetch64_of_agreesBelow h) fun _ => rfl
  | weakhashMem => exact memoryPrimitive_withInbuf (weakHashMem_of_agreesBelow _ _ h) fun _ => rfl
  | rotr32 | rotr64 | rotr64Al1 =>
    simp only [exec, execRotr32, execRotr64, execRotr64Al1, mapNext_dite]
    rfl
  | fmix | mur | shiftmix | hash128to64 | weakhash | bswap32 => rfl

/-- Settles O49: every fetch of a digest's bands and of a primitive's window lies below L(LEN), and in LOOP the
invariant puts the chunk at OFF there too. -/
theorem stepDependsOnlyOnInputBytes : Obligations.StepDependsOnlyOnInputBytes := by
  unfold Obligations.StepDependsOnlyOnInputBytes
  exact fun _ _ _ hs _ hc h => exec_withInbuf hs hc h

end Sys2Proof.Machine
end

section
/-! SUPPORT. Command words against the opcode map (30_encoding.md section 3): a word decodes to a command exactly when it
is that command's encoding, and some command answers exactly for the words that pass the two checks of R64 and R65. -/

namespace Sys2Proof

/-! ### The opcode map -/

theorem opcodeMap_eq_some_iff (op : U8) (i : Instr) : opcodeMap op = some i ↔ op = opcodeOf i := by
  constructor
  · exact opcodeOf_of_opcodeMap
  · rintro rfl
    exact opcodeMap_opcodeOf i

/-- The legal opcodes are the two groups of the map, 0x01..0x04 and 0x10..0x1C (R63, R64). -/
theorem opcodeLegal_iff (op : U8) :
    opcodeLegal op = true ↔ (0x01 ≤ op.toNat ∧ op.toNat ≤ 0x04) ∨ (0x10 ≤ op.toNat ∧ op.toNat ≤ 0x1C) := by
  have hlt : op.toNat < 256 := op.isLt
  simp only [opcodeLegal, Bool.not_eq_true', Bool.or_eq_false_iff, Bool.and_eq_false_iff, beq_eq_false_iff_ne,
    decide_eq_false_iff_not]
  omega

theorem opcodeLegal_opcodeOf (i : Instr) : opcodeLegal (opcodeOf i) = true := by
  cases i <;> rfl

/-- An opcode that no row of the map has is illegal (R64). -/
theorem opcodeLegal_eq_false_of_opcodeMap_eq_none {op : U8} (h : opcodeMap op = none) : opcodeLegal op = false := by
  rw [Bool.eq_false_iff, Ne, opcodeLegal_iff]
  unfold opcodeMap at h
  split at h
  case h_18 =>
    simp only [imp_false] at *
    omega
  all_goals cases h

/-- The opcode map answers exactly on the legal opcodes (R63, R64). -/
theorem opcodeLegal_iff_exists_opcodeMap (op : U8) : opcodeLegal op = true ↔ ∃ i, opcodeMap op = some i := by
  constructor
  · intro hlegal
    refine Option.ne_none_iff_exists'.mp fun hnone => ?_
    simp [opcodeLegal_eq_false_of_opcodeMap_eq_none hnone] at hlegal
  · rintro ⟨i, hi⟩
    rw [opcodeOf_of_opcodeMap hi]
    exact opcodeLegal_opcodeOf i

theorem opcodeMap_eq_none_of_illegal {op : U8} (h : opcodeLegal op = false) : opcodeMap op = none := by
  rw [Option.eq_none_iff_forall_ne_some]
  intro i hi
  rw [(opcodeLegal_iff_exists_opcodeMap op).mpr ⟨i, hi⟩] at h
  cases h

/-! ### Whole words -/

theorem encode_toNat (i : Instr) : (encode i).toNat = (opcodeOf i).toNat :=
  BitVec.toNat_setWidth_of_le (by decide)

theorem reservedClear_eq_not_rsvSet (w : U64) : reservedClear w = !rsvSet w := by
  rw [rsvSet_eq, Bool.eq_iff_iff]
  simp [reservedClear]

theorem decodeWord_ok_iff_fields (w : U64) (i : Instr) :
    decodeWord w = .ok i ↔ rsvSet w = false ∧ opcodeMap (opcodeField w) = some i :=
  decodeLatched_ok_iff _ _ _

/-- A word with RSV = 0 is its OPCODE field, zero-extended (R59). -/
theorem eq_encode_iff (w : U64) (i : Instr) : w = encode i ↔ rsvSet w = false ∧ opcodeField w = opcodeOf i := by
  have hop : (opcodeOf i).toNat < 256 := (opcodeOf i).isLt
  rw [rsvSet_eq, decide_eq_false_iff_not, not_not, ← BitVec.toNat_inj, ← BitVec.toNat_inj, encode_toNat,
    opcodeField_toNat]
  omega

/-- "The full match is `word[63:0]` with RSV = 0" (R63). -/
theorem decodeWord_ok_iff (w : U64) (i : Instr) : decodeWord w = .ok i ↔ w = encode i := by
  rw [decodeWord_ok_iff_fields, opcodeMap_eq_some_iff, eq_encode_iff]

/-- Settles O19: a word decodes to a command by its two fields, which are those of the command's encoding; the
seventeen encodings are read off the encoder. -/
theorem everyCommandHasExactlyOneWord : Obligations.EveryCommandHasExactlyOneWord := by
  unfold Obligations.EveryCommandHasExactlyOneWord
  exact ⟨decodeWord_ok_iff, rfl, rfl, rfl, rfl, rfl, rfl, rfl, rfl, rfl, rfl, rfl, rfl, rfl, rfl, rfl, rfl, rfl⟩

/-- Settles O20: the reserved check is the decoder's, and the opcode map answers exactly on the legal opcodes. -/
theorem wellFormedWordsDecode : Obligations.WellFormedWordsDecode := by
  unfold Obligations.WellFormedWordsDecode
  intro w
  have hlegal : opcodeLegal (w.setWidth 8) = true ↔ ∃ i, opcodeMap (opcodeField w) = some i :=
    opcodeLegal_iff_exists_opcodeMap _
  rw [wordWellFormed, Bool.and_eq_true, reservedClear_eq_not_rsvSet, Bool.not_eq_true', hlegal]
  simp only [decodeWord_ok_iff_fields, exists_and_left]

/-- Settles O18: each of the six words is the encoding of its command. -/
theorem opcodeMapWords : Obligations.OpcodeMapWords := by
  unfold Obligations.OpcodeMapWords
  simp only [decodeWord_ok_iff]
  decide

end Sys2Proof
end

section
/-! SUPPORT. A command word from acceptance to its first engine step (30_encoding.md R60, R61): what a host write to CMD
does, and the engine step that runs the word's command or ends with the decoder's error. -/

namespace Sys2Proof.Machine

/-! ### Acceptance -/

theorem writeCmd_of_busy {s : State} (word : U64) (hb : s.busy = true) : writeCmd word s = dropWrite s := by
  rw [writeCmd, if_pos hb]

theorem writeCmd_of_idle {s : State} (word : U64) (hb : s.busy = false) : writeCmd word s = accept word s := by
  simp [writeCmd, hb]

/-- CMD stands at offset 0 of the window (10_state.md R18). -/
theorem step_cmdWrite {s : State} {word : U64} {rest : List Event}
    (h : s.events = .host (.regWrite 0x00 8 word) :: rest) :
    step s = .next (writeCmd word { s with events := rest }) :=
  step_regWrite rfl h

/-- What acceptance leaves, with RSV as a number (R60). -/
theorem accept_eq (word : U64) (s : State) :
    accept word s =
      { s with
        opcodeL := word.setWidth 8
        cmdrsvL := decide (word.toNat / 256 ≠ 0)
        latched := s.regs
        phase := .setup
        status := { done := false, err := false, wdrop := s.status.wdrop, errcode := 0 } } := by
  rw [← rsvSet_eq]
  rfl

/-- Settles O12: a CMD write is `dropWrite` while BUSY and `accept` otherwise. -/
theorem commandAcceptance : Obligations.CommandAcceptance := by
  unfold Obligations.CommandAcceptance
  intro s rest word hev
  rw [step_cmdWrite hev]
  constructor
  · intro hb
    rw [writeCmd_of_busy (s := { s with events := rest }) word hb]
    rfl
  · intro hb
    rw [writeCmd_of_idle (s := { s with events := rest }) word hb, accept_eq]

/-! ### The engine step after it -/

theorem engineStep_of_error {s : State} {e : CmdError} (hb : s.busy = true) (hc : current s = .error e) :
    engineStep s = .next (raiseError e s) := by
  have hp := (busy_iff s).mp hb
  unfold engineStep
  split
  · exact absurd (by assumption) hp
  · rw [hc]

/-- Settles O13: both ways to take an engine step, in a BUSY state whose latched pair decodes. -/
theorem engineStepRunsDecodedCommand : Obligations.EngineStepRunsDecodedCommand := by
  unfold Obligations.EngineStepRunsDecodedCommand
  intro s i hb hc
  refine ⟨fun hev => ?_, fun rest hev => ?_⟩
  · rw [step_nil hev, engineStep_of_busy hb hc]
  · rw [step_engine hev]
    exact engineStep_of_busy (s := { s with events := rest }) hb hc

/-- Placing a 64-bit word accepts it and puts an engine step first. -/
theorem withFetchWord_eq (s : State) (w : U64) :
    s.withFetchWord 64 w.toNat = { accept w s with events := .engine :: s.events } := by
  rw [State.withFetchWord, Nat.mod_eq_of_lt w.isLt, BitVec.ofNat_toNat, BitVec.setWidth_eq]

/-- Settles O14: the engine step put first runs the accepted word, which decodes to its command. -/
theorem placedWordIsRunNext : Obligations.PlacedWordIsRunNext := by
  unfold Obligations.PlacedWordIsRunNext
  intro s i
  rw [withFetchWord_eq, step_engine rfl]
  exact engineStep_of_busy (s := accept (encode i) s) rfl (current_accept_encode i s)

/-! ### Words that end with an error -/

theorem decodeWord_of_rsvSet {w : U64} (h : rsvSet w = true) : decodeWord w = .error .reserved := by
  simp [decodeWord, decodeLatched, h]

theorem decodeWord_of_illegal {w : U64} (hr : rsvSet w = false) (hop : opcodeLegal (opcodeField w) = false) :
    decodeWord w = .error .opcode := by
  simp [decodeWord, decodeLatched, hr, opcodeMap_eq_none_of_illegal hop]

/-- A CMD write of a word that does not decode, and one engine step: the word is accepted and ends with the decoder's
error (R60, R61). -/
theorem run_cmdWrite_of_decode_error {s : State} {word : U64} {e : CmdError} (hb : s.busy = false)
    (hdec : decodeWord word = .error e) (hev : s.events = [.host (.regWrite 0x00 8 word)]) :
    run 2 s = .next (raiseError e (accept word { s with events := [] })) := by
  rw [run_succ_of_next (step_cmdWrite hev), writeCmd_of_idle (s := { s with events := [] }) word hb, run_one,
    step_nil rfl]
  exact engineStep_of_error rfl hdec

/-- Settles O16: the reserved check comes first, so the opcode plays no part. -/
theorem reservedBitsEndWithErrReserved : Obligations.ReservedBitsEndWithErrReserved := by
  unfold Obligations.ReservedBitsEndWithErrReserved
  intro s word hb hrsv hev
  exact run_cmdWrite_of_decode_error hb (decodeWord_of_rsvSet ((rsvSet_iff word).mpr hrsv)) hev

/-- Settles O17: RSV = 0, and the word is its own opcode, which is in neither group of the map. -/
theorem illegalOpcodeEndsWithErrOpcode : Obligations.IllegalOpcodeEndsWithErrOpcode := by
  unfold Obligations.IllegalOpcodeEndsWithErrOpcode
  intro s word hb hlt hill hev
  have hrsv : rsvSet word = false := by
    rw [rsvSet_eq, decide_eq_false_iff_not]
    omega
  have hop : opcodeLegal (opcodeField word) = false := by
    rw [Bool.eq_false_iff, Ne, opcodeLegal_iff, opcodeField_toNat]
    omega
  exact run_cmdWrite_of_decode_error hb (decodeWord_of_illegal hrsv hop) hev

end Sys2Proof.Machine
end

section
/-! SUPPORT. Progress (60_exceptions.md R138): in a BUSY state of the invariant with the command's input written, an engine
step has a next state, and that state needs one engine step less. -/

namespace Sys2Proof.Machine

/-- The input the running command may read is written: all of [0, L(LEN)), for a command that reads INBUF and whose length
is legal. -/
def State.InputWritten (s : State) : Prop :=
  ∀ i, current s = .ok i → readsInbuf i = true → s.latched.len.toNat ≤ s.params.maxlen.toNat →
    written s.inbuf s.latched.len.toNat

/-! ### Written input can be read -/

section
variable {m : Memory} {rd : Nat → U8} {p : Params} {n : U64} (h : holds m rd n.toNat)
include h

theorem hash32Fold_exists_of_holds {k i : Nat} (b c : U32) (hk : i + k ≤ n.toNat) :
    ∃ r, hash32Fold p m i k b c = some r := by
  induction k generalizing i b c with
  | zero => exact ⟨_, rfl⟩
  | succ k ih =>
    rw [hash32Fold, fetch8_of_holds h (by omega)]
    exact ih _ _ (by omega)

theorem hash32Short_exists_of_holds (hn : n.toNat ≤ 24) : ∃ d, hash32Short p m n = some d := by
  unfold hash32Short
  split
  · obtain ⟨r, hr⟩ := hash32Fold_exists_of_holds (p := p) h 0 9 (Nat.zero_add _).le
    rw [hash32Len0to4, hr]
    exact ⟨_, rfl⟩
  · split
    · have hmid := hash32_middle_word_inside (show 5 ≤ n.toNat by omega) (by omega)
      simp (disch := omega) only [hash32Len5to12, fetch32_of_holds h]
      exact ⟨_, rfl⟩
    · simp (disch := omega) only [hash32Len13to24, fetch32_of_holds h]
      exact ⟨_, rfl⟩

theorem hash32Init_exists_of_holds (hn : 25 ≤ n.toNat) : ∃ w, hash32Init p m n = some w := by
  simp (disch := omega) only [hash32Init, fetch32_of_holds h]
  exact ⟨_, rfl⟩

theorem hash32Chunk_exists_of_holds {off : Nat} (w : Work32) (hoff : off + 20 ≤ n.toNat) :
    ∃ w', hash32Chunk p m off w = some w' := by
  simp (disch := omega) only [hash32Chunk, fetch32_of_holds h]
  exact ⟨_, rfl⟩

theorem hashLen0to16_exists_of_holds : ∃ d, hashLen0to16 p m n = some d := by
  unfold hashLen0to16
  split
  · simp (disch := omega) only [hashLen9to16, fetch64_of_holds h]
    exact ⟨_, rfl⟩
  · split
    · simp (disch := omega) only [hashLen4to8, fetch32_of_holds h]
      exact ⟨_, rfl⟩
    · split
      · simp (disch := omega) only [hashLen1to3, fetch8_of_holds h]
        exact ⟨_, rfl⟩
      · exact ⟨_, rfl⟩

theorem hash64Short_exists_of_holds (hn : n.toNat ≤ 64) : ∃ d, hash64Short p m n = some d := by
  unfold hash64Short
  split
  · exact hashLen0to16_exists_of_holds h
  · split
    · simp (disch := omega) only [hashLen17to32, fetch64_of_holds h]
      exact ⟨_, rfl⟩
    · simp (disch := omega) only [hashLen33to64, frontView, backView, fetch64_of_holds h]
      exact ⟨_, rfl⟩

theorem hash64Init_exists_of_holds (hn : 65 ≤ n.toNat) : ∃ w, hash64Init p m n = some w := by
  simp (disch := omega) only [hash64Init, fetch64_of_holds h, weakHashMem_of_holds _ _ h]
  exact ⟨_, rfl⟩

theorem hash64Chunk_exists_of_holds {off : Nat} (w : Work64) (hoff : off + 64 ≤ n.toNat) :
    ∃ w', hash64Chunk p m off w = some w' := by
  simp (disch := omega) only [hash64Chunk, fetch64_of_holds h, weakHashMem_of_holds _ _ h]
  exact ⟨_, rfl⟩

end

/-! ### A step that reads written input has a next state -/

theorem readOrFault_exists_next {α : Type} {read : Option α} (k : α → State) (h : ∃ a, read = some a) :
    ∃ t, readOrFault read k = .next t := by
  obtain ⟨a, rfl⟩ := h
  exact ⟨k a, rfl⟩

theorem checkLen_exists_next {s : State} {k : Result}
    (h : s.latched.len.toNat ≤ s.params.maxlen.toNat → ∃ t, k = .next t) : ∃ t, checkLen s k = .next t := by
  by_cases hm : s.latched.len.toNat ≤ s.params.maxlen.toNat
  · rw [checkLen_of_fits k hm]
    exact h hm
  · exact ⟨_, checkLen_of_big k (Nat.lt_of_not_le hm)⟩

section
variable {s : State}
  (hin : s.latched.len.toNat ≤ s.params.maxlen.toNat → ∃ rd, holds s.inbuf rd s.latched.len.toNat)
include hin

/-- A memory primitive whose read has a value wherever its operand passes the check (40_primitives.md R83). -/
theorem memoryPrimitive_exists_next {α : Type} {off : U64} {w : Nat} {read : Option α} (k : α → State)
    (hr : ∀ rd, holds s.inbuf rd s.latched.len.toNat → off.toNat + w ≤ s.latched.len.toNat → ∃ a, read = some a) :
    ∃ t, checkLen s (checkOperand (pastBound off w s) s (readOrFault read k)) = .next t := by
  refine checkLen_exists_next fun hm => ?_
  obtain ⟨rd, h⟩ := hin hm
  by_cases hpast : off.toNat + w ≤ s.latched.len.toNat
  · rw [checkOperand_of_inside _ hpast]
    exact readOrFault_exists_next k (hr rd h hpast)
  · exact ⟨_, checkOperand_of_past _ (Nat.lt_of_not_le hpast)⟩

theorem hash32Setup_exists_next : ∃ t, hash32Setup s = .next t := by
  refine checkLen_exists_next fun hm => ?_
  obtain ⟨rd, h⟩ := hin hm
  split
  case isTrue hn => exact readOrFault_exists_next _ (hash32Short_exists_of_holds h hn)
  case isFalse hn => exact readOrFault_exists_next _ (hash32Init_exists_of_holds h (Nat.lt_of_not_le hn))

theorem hash64Setup_exists_next (post : U64 → U64) : ∃ t, hash64Setup post s = .next t := by
  refine checkLen_exists_next fun hm => ?_
  obtain ⟨rd, h⟩ := hin hm
  split
  case isTrue hn => exact readOrFault_exists_next _ (hash64Short_exists_of_holds h hn)
  case isFalse hn => exact readOrFault_exists_next _ (hash64Init_exists_of_holds h (Nat.lt_of_not_le hn))

theorem execHash32_exists_next
    (hloop : s.phase = .loop →
      s.off.toNat + 20 ≤ s.latched.len.toNat ∧ s.latched.len.toNat ≤ s.params.maxlen.toNat) :
    ∃ t, execHash32 s = .next t := by
  unfold execHash32
  split
  case h_1 | h_2 => exact hash32Setup_exists_next hin
  case h_3 hp =>
    obtain ⟨hoff, hm⟩ := hloop hp
    obtain ⟨rd, h⟩ := hin hm
    exact readOrFault_exists_next _ (hash32Chunk_exists_of_holds h s.work32 hoff)
  case h_4 => exact ⟨_, rfl⟩

theorem hash64Step_exists_next (post : U64 → U64)
    (hloop : s.phase = .loop →
      s.off.toNat + 64 ≤ s.latched.len.toNat ∧ s.latched.len.toNat ≤ s.params.maxlen.toNat) :
    ∃ t, hash64Step post s = .next t := by
  unfold hash64Step
  split
  case h_1 | h_2 => exact hash64Setup_exists_next hin post
  case h_3 hp =>
    obtain ⟨hoff, hm⟩ := hloop hp
    obtain ⟨rd, h⟩ := hin hm
    exact readOrFault_exists_next _ (hash64Chunk_exists_of_holds h s.work64 hoff)
  case h_4 => exact ⟨_, rfl⟩

end

/-- With its input written, a command's step has a next state. -/
theorem exec_exists_next {i : Instr} {s : State} (hs : s.Inv) (hc : current s = .ok i) (hw : s.InputWritten) :
    ∃ t, exec i s = .next t := by
  have hin (hr : readsInbuf i = true) (hm : s.latched.len.toNat ≤ s.params.maxlen.toNat) :
      ∃ rd, holds s.inbuf rd s.latched.len.toNat := holds_of_written (hw i hc hr hm)
  have hloop64 (hi : isHash64 i = true) (hp : s.phase = .loop) :
      s.off.toNat + 64 ≤ s.latched.len.toNat ∧ s.latched.len.toNat ≤ s.params.maxlen.toNat := by
    obtain ⟨c, hr, hoff⟩ := hs.chunk_inside hp
    obtain ⟨rfl, -, hm⟩ := (runningChunk_hash64_iff hi hc c).mp hr
    exact ⟨hoff, hm⟩
  cases i with
  | hash32 =>
    refine execHash32_exists_next (hin rfl) fun hp => ?_
    obtain ⟨c, hr, hoff⟩ := hs.chunk_inside hp
    obtain ⟨rfl, -, hm⟩ := (runningChunk_hash32_iff hc c).mp hr
    exact ⟨hoff, hm⟩
  | hash64 | hash64Seed | hash64Seeds => exact hash64Step_exists_next (hin rfl) _ (hloop64 rfl)
  | fetch8 => exact memoryPrimitive_exists_next (hin rfl) _ fun rd h hk => ⟨_, fetch8_of_holds h hk⟩
  | fetch32 => exact memoryPrimitive_exists_next (hin rfl) _ fun rd h hk => ⟨_, fetch32_of_holds h hk⟩
  | fetch64 => exact memoryPrimitive_exists_next (hin rfl) _ fun rd h hk => ⟨_, fetch64_of_holds h hk⟩
  | weakhashMem => exact memoryPrimitive_exists_next (hin rfl) _ fun rd h hk => ⟨_, weakHashMem_of_holds _ _ h hk⟩
  | rotr32 | rotr64 | rotr64Al1 =>
    simp only [exec, execRotr32, execRotr64, execRotr64Al1]
    split <;> exact ⟨_, rfl⟩
  | fmix | mur | shiftmix | hash128to64 | weakhash | bswap32 => exact ⟨_, rfl⟩

/-! ### The steps left -/

section
variable {s t : State} {c : Nat}

theorem stepsLeft_of_idle (hp : s.phase = .idle) : stepsLeft s = 0 := by
  simp [stepsLeft, hp]

theorem stepsLeft_of_setup_short (hp : s.phase = .setup) (hr : runningChunk s = none) : stepsLeft s = 1 := by
  simp [stepsLeft, hp, hr]

theorem stepsLeft_of_setup_long (hp : s.phase = .setup) (hr : runningChunk s = some c) :
    stepsLeft s = 1 + (s.latched.len.toNat - 1) / c + 1 := by
  simp [stepsLeft, hp, hr]

theorem stepsLeft_of_loop (hp : s.phase = .loop) : stepsLeft s = s.iters.toNat + 1 := by
  simp [stepsLeft, hp]

theorem stepsLeft_of_final (hp : s.phase = .final) : stepsLeft s = 1 := by
  simp [stepsLeft, hp]

/-- A command that is no long digest of legal length needs one step, its SETUP (R138). -/
theorem State.Inv.stepsLeft_of_short (h : s.Inv) (hb : s.busy = true) (hr : runningChunk s = none) :
    stepsLeft s = 1 := by
  cases hp : s.phase with
  | idle => exact absurd hp ((busy_iff s).mp hb)
  | setup => exact stepsLeft_of_setup_short hp hr
  | loop =>
    obtain ⟨c, hr', -⟩ := h.loopRunsLongDigest hp
    simp [hr] at hr'
  | final => exact stepsLeft_of_final hp

/-- That one step ends the command. -/
theorem Move.idle_of_short {i : Instr} (m : Move i s t) (h : s.Inv) (hc : current s = .ok i)
    (hr : runningChunk s = none) : t.phase = .idle := by
  have hnot (c : Nat) : runningChunk s ≠ some c := by simp [hr]
  cases m with
  | start32 w hi hp hn hm =>
    subst hi
    exact absurd ((runningChunk_hash32_iff hc 20).mpr ⟨rfl, hn, hm⟩) (hnot 20)
  | start64 w hi hp hn hm => exact absurd ((runningChunk_hash64_iff hi hc 64).mpr ⟨rfl, hn, hm⟩) (hnot 64)
  | loop32 w hi hp | loop64 w hi hp =>
    obtain ⟨c, hr', -⟩ := h.loopRunsLongDigest hp
    exact absurd hr' (hnot c)
  | _ => rfl

/-- The three steps of a long digest of chunk size `c`, by what they do to PHASE and ITERS (41_hash32.md R102 to R104,
42_hash64.md R118 to R120). -/
inductive LongStep (c : Nat) (s t : State) : Prop where
  | start (hs : s.phase = .setup) (ht : t.phase = .loop)
      (hiters : t.iters = BitVec.ofNat 64 ((s.latched.len.toNat - 1) / c))
  | advance (hs : s.phase = .loop) (ht : t.phase = if s.iters - 1 = 0 then .final else .loop)
      (hiters : t.iters = s.iters - 1)
  | finish (hs : s.phase = .final) (ht : t.phase = .idle)

theorem execHash32_longStep (hb : s.busy = true) (hn : 25 ≤ s.latched.len.toNat)
    (hm : s.latched.len.toNat ≤ s.params.maxlen.toNat) (he : execHash32 s = .next t) : LongStep 20 s t := by
  unfold execHash32 at he
  split at he
  case h_1 hp => exact absurd hp ((busy_iff s).mp hb)
  case h_2 hp =>
    rw [hash32Setup, checkLen_of_fits _ hm, if_neg (by omega)] at he
    obtain ⟨w, -, rfl⟩ := readOrFault_next.mp he
    exact .start hp rfl rfl
  case h_3 hp =>
    obtain ⟨w, -, rfl⟩ := readOrFault_next.mp he
    exact .advance hp rfl rfl
  case h_4 hp =>
    cases he
    exact .finish hp rfl

theorem hash64Step_longStep {post : U64 → U64} (hb : s.busy = true) (hn : 65 ≤ s.latched.len.toNat)
    (hm : s.latched.len.toNat ≤ s.params.maxlen.toNat) (he : hash64Step post s = .next t) : LongStep 64 s t := by
  unfold hash64Step at he
  split at he
  case h_1 hp => exact absurd hp ((busy_iff s).mp hb)
  case h_2 hp =>
    rw [hash64Setup, checkLen_of_fits _ hm, if_neg (by omega)] at he
    obtain ⟨w, -, rfl⟩ := readOrFault_next.mp he
    exact .start hp rfl rfl
  case h_3 hp =>
    obtain ⟨w, -, rfl⟩ := readOrFault_next.mp he
    exact .advance hp rfl rfl
  case h_4 hp =>
    cases he
    exact .finish hp rfl

theorem exec_longStep {i : Instr} (hb : s.busy = true) (hc : current s = .ok i) (hr : runningChunk s = some c)
    (he : exec i s = .next t) : LongStep c s t := by
  cases i with
  | hash32 =>
    obtain ⟨rfl, hn, hm⟩ := (runningChunk_hash32_iff hc c).mp hr
    exact execHash32_longStep hb hn hm he
  | hash64 | hash64Seed | hash64Seeds =>
    obtain ⟨rfl, hn, hm⟩ := (runningChunk_hash64_iff rfl hc c).mp hr
    exact hash64Step_longStep hb hn hm he
  | _ => simp [runningChunk, hc, longChunk] at hr

/-- Each step of a long digest leaves one step less: SETUP leaves the chunks and FINAL, a LOOP step one chunk less. -/
theorem LongStep.stepsLeft (m : LongStep c s t) (h : s.Inv) (hr : runningChunk s = some c) :
    stepsLeft t + 1 = stepsLeft s := by
  cases m with
  | start hs ht hiters =>
    have hle := Nat.div_le_self (s.latched.len.toNat - 1) c
    rw [stepsLeft_of_loop ht, stepsLeft_of_setup_long hs hr, hiters, BitVec.toNat_ofNat, Nat.mod_eq_of_lt (by omega)]
    omega
  | advance hs ht hiters =>
    obtain ⟨-, -, hpos, -⟩ := h.loopRunsLongDigest hs
    rw [stepsLeft_of_loop hs]
    split at ht
    case isTrue hlast =>
      rw [stepsLeft_of_final ht]
      bv_omega
    case isFalse hmore =>
      rw [stepsLeft_of_loop ht, hiters]
      bv_omega
  | finish hs ht => rw [stepsLeft_of_idle ht, stepsLeft_of_final hs]

theorem exec_stepsLeft {i : Instr} (h : s.Inv) (hb : s.busy = true) (hc : current s = .ok i)
    (he : exec i s = .next t) : stepsLeft t + 1 = stepsLeft s := by
  cases hr : runningChunk s with
  | none => rw [stepsLeft_of_idle ((exec_moves he).idle_of_short h hc hr), h.stepsLeft_of_short hb hr]
  | some c => exact (exec_longStep hb hc hr he).stepsLeft h hr

/-- Progress: a BUSY engine with its input written has a next step, and then needs one step less (R138). -/
theorem engineStep_progress (h : s.Inv) (hb : s.busy = true) (hw : s.InputWritten) :
    ∃ t, engineStep s = .next t ∧ stepsLeft t + 1 = stepsLeft s := by
  cases hc : current s with
  | error e =>
    have hshort : runningChunk s = none := by simp [runningChunk, hc]
    exact ⟨_, engineStep_of_error hb hc, by rw [stepsLeft_of_idle rfl, h.stepsLeft_of_short hb hshort]⟩
  | ok i =>
    obtain ⟨t, he⟩ := exec_exists_next h hc hw
    exact ⟨t, (engineStep_of_busy hb hc).trans he, exec_stepsLeft h hb hc he⟩

/-- An engine step keeps the input written: it changes neither the latched copies nor INBUF. -/
theorem EngineFrame.inputWritten (f : EngineFrame s t) (hw : s.InputWritten) : t.InputWritten := by
  intro i hc
  rw [current, f.opcodeL, f.cmdrsvL] at hc
  rw [f.latched, f.params, f.inbuf]
  exact hw i hc

theorem busy_iff_stepsLeft_pos (s : State) : s.busy = true ↔ 0 < stepsLeft s := by
  rw [busy_iff]
  cases hp : s.phase with
  | idle => simp [stepsLeft_of_idle hp]
  | setup =>
    cases hr : runningChunk s with
    | none => simp [stepsLeft_of_setup_short hp hr]
    | some c => simp [stepsLeft_of_setup_long hp hr]
  | loop => simp [stepsLeft_of_loop hp]
  | final => simp [stepsLeft_of_final hp]

end

end Sys2Proof.Machine
end

section
/-! SUPPORT. Host sequences (30_encoding.md section 4): the lines of R68, and the polling loop `wait` of R69, which ends when
the running command has ended. -/

namespace Sys2Proof.Machine

/-- A line decodes to the transaction it encodes (R68). -/
theorem decodeLine_of_encodeTxn {t : HostTxn} {l : Line} (h : encodeTxn t = some l) : decodeLine l = t := by
  cases t with
  | regWrite off width v | regRead off width =>
    simp only [encodeTxn, Option.ite_none_right_eq_some, Option.some.injEq] at h
    obtain ⟨rfl, rfl⟩ := h
    rfl
  | bufWrite addr b =>
    cases h
    have hbyte : (b.setWidth 64).setWidth 8 = b := by
      rw [BitVec.setWidth_setWidth_of_le _ (by decide), BitVec.setWidth_eq]
    simp only [decodeLine, hbyte]
  | bufRead addr =>
    cases h
    rfl

/-- Where a poll that reads DONE = 0 leaves the engine to step from: STATUS read, and the loop still to go on. -/
def State.polled (rest : List Event) (s : State) : State := { s with events := .wait :: rest, hostData := statusWord s }

section
variable {s u : State} {rest : List Event}

theorem stepsLeft_polled : stepsLeft (s.polled rest) = stepsLeft s := rfl

/-- A poll that reads DONE = 1 ends the loop (R69). -/
theorem step_wait_of_done (hev : s.events = .wait :: rest) (hd : s.status.done = true) :
    step s = .next { s with events := rest, hostData := statusWord s } := by
  rw [step_wait hev, pollDone]
  simp only [hd, if_true]
  rfl

/-- A poll that reads DONE = 0 lets the engine take a step and polls again (R69; notes/assumptions/13.md). -/
theorem step_wait_of_not_done (hev : s.events = .wait :: rest) (hd : s.status.done = false) :
    step s = .next { s with events := .engine :: .wait :: rest, hostData := statusWord s } := by
  rw [step_wait hev, pollDone]
  simp only [hd, Bool.false_eq_true, if_false]
  rfl

/-- One round of the loop: a poll that reads DONE = 0, and the engine's step. -/
theorem run_wait_round (hev : s.events = .wait :: rest) (hd : s.status.done = false)
    (hu : engineStep (s.polled rest) = .next u) : run 2 s = .next u := by
  rw [run_succ_of_next (step_wait_of_not_done hev hd), run_one, step_engine rfl]
  exact hu

/-- `wait` ends: each round takes one engine step, until the command has ended and a poll reads DONE = 1. -/
theorem wait_ends {n : Nat} (h : s.Inv) (hw : s.InputWritten) (hidle : s.busy = false → s.status.done = true)
    (hev : s.events = .wait :: rest) (hn : stepsLeft s = n) :
    ∃ t : State, run (2 * n + 1) s = .next t ∧ t.events = rest ∧ t.busy = false ∧ t.hostData.getLsbD 1 = true := by
  induction n generalizing s with
  | zero =>
    have hb : s.busy = false := by
      rw [Bool.eq_false_iff, Ne, busy_iff_stepsLeft_pos]
      omega
    have hd := hidle hb
    exact ⟨_, (run_one s).trans (step_wait_of_done hev hd), rfl, hb, (statusWord_getLsbD s 1).trans hd⟩
  | succ n ih =>
    have hb : s.busy = true := (busy_iff_stepsLeft_pos s).mpr (by omega)
    obtain ⟨hd, -, -⟩ := h.busyStatus hb
    have hpolled : (s.polled rest).Inv := h.with_unread
    obtain ⟨u, hu, hless⟩ := engineStep_progress hpolled hb hw
    rw [stepsLeft_polled] at hless
    have f := engineStep_engineFrame hu
    obtain ⟨t, hrun, hend⟩ := ih (engineStep_keeps_inv hpolled hu) (f.inputWritten hw)
      (engineStep_stepEnd (s := s.polled rest) hb hu).done_of_idle f.events (by omega)
    refine ⟨t, ?_, hend⟩
    rw [show 2 * (n + 1) + 1 = 2 + (2 * n + 1) by omega, run_add (run_wait_round hev hd hu), hrun]

end

/-- Settles O58: the lines one kind at a time, the poll that reads DONE = 1, and by induction on the steps left that
`wait` comes to it. -/
theorem hostSequenceLinesAndWait : Obligations.HostSequenceLinesAndWait := by
  unfold Obligations.HostSequenceLinesAndWait
  refine ⟨fun _ _ => decodeLine_of_encodeTxn, fun _ _ => step_wait_of_done, fun s rest h hb hev hw => ?_⟩
  exact wait_ends h hw (fun hidle => by simp [hb] at hidle) hev rfl

end Sys2Proof.Machine
end

section
/-! SUPPORT. The thirteen primitive commands (40_primitives.md R84 to R96): what each primitive function computes, in the
terms of the statements, and what each command's step answers. The four memory primitives share one shape, ERR_LEN, then
ERR_OPERAND, then the load: each of the three outcomes is a lemma about that shape. -/

namespace Sys2Proof.Machine

/-- The word of a command decodes to it (30_encoding.md R63). -/
theorem decodeWord_encode (i : Instr) : decodeWord (encode i) = .ok i := (decodeWord_ok_iff _ i).mpr rfl

/-! ### Rotations -/

section
variable {s : State}

theorem exec_rotr32_of_le (h : s.latched.opb.toNat ≤ 31) :
    exec .rotr32 s =
      .next (finished s (((s.latched.opa.setWidth 32).rotateRight s.latched.opb.toNat).setWidth 64)) := by
  rw [exec, execRotr32, dif_pos (by omega), rotate32_eq_rotateRight, complete_eq_finished]
  rfl

theorem exec_rotr64_of_le (h : s.latched.opb.toNat ≤ 63) :
    exec .rotr64 s = .next (finished s (s.latched.opa.rotateRight s.latched.opb.toNat)) := by
  rw [exec, execRotr64, dif_pos (by omega), rotate64_eq_rotateRight, complete_eq_finished]

theorem exec_rotr64Al1_of_mem (h : 1 ≤ s.latched.opb.toNat ∧ s.latched.opb.toNat ≤ 63) :
    exec .rotr64Al1 s = .next (finished s (s.latched.opa.rotateRight s.latched.opb.toNat)) := by
  rw [exec, execRotr64Al1, dif_pos h, rotateByAtLeast1_eq_rotateRight, complete_eq_finished]

end

/-- Settles O21: the shift is either in the domain of `rotate32`, which is the library's rotation, or above it. -/
theorem rotr32Command : Obligations.Rotr32Command := by
  unfold Obligations.Rotr32Command
  refine ⟨decodeWord_encode .rotr32, fun s => ⟨exec_rotr32_of_le, fun h => ?_⟩⟩
  rw [exec, execRotr32, dif_neg (by omega)]
  rfl

/-- Settles O22: the shift is either in the domain of `rotate64`, which is the library's rotation, or above it. -/
theorem rotr64Command : Obligations.Rotr64Command := by
  unfold Obligations.Rotr64Command
  refine ⟨decodeWord_encode .rotr64, fun s => ⟨exec_rotr64_of_le, fun h => ?_⟩⟩
  rw [exec, execRotr64, dif_neg (by omega)]
  rfl

/-- Settles O23: on shifts 1 to 63 both rotation commands give the library's rotation; the
other shifts end with ERR_OPERAND. -/
theorem rotr64AtLeast1Command : Obligations.Rotr64AtLeast1Command := by
  unfold Obligations.Rotr64AtLeast1Command
  refine ⟨decodeWord_encode .rotr64Al1, fun s => ⟨fun h1 h63 => ?_, fun h => ?_⟩⟩
  · rw [exec_rotr64Al1_of_mem ⟨h1, h63⟩, exec_rotr64_of_le h63]
    exact ⟨rfl, rfl⟩
  · rw [exec, execRotr64Al1, dif_neg (by omega)]
    rfl

/-! ### Mixing functions -/

theorem mur_eq_rotateRight (p : Params) (a h : U32) :
    mur p a h = (h ^^^ (a * p.c1).rotateRight 17 * p.c2).rotateRight 19 * 5 + murConst := by
  simp only [mur, rotate32_eq_rotateRight]
  rfl

/-- With both operands 0 the constants C1 and C2 play no part (R77). -/
theorem mur_zero_zero (p : Params) : mur p 0 0 = murConst := by
  have hrot : (0 : U32).rotateRight 17 = 0 := by decide
  rw [mur_eq_rotateRight, zero_mul, hrot, zero_mul]
  decide

/-- Nothing of a value below 2^47 reaches the low bits (R78). -/
theorem shiftMix_of_lt {v : U64} (h : v.toNat < 2 ^ 47) : shiftMix v = v := by
  have hshift : v >>> 47 = 0 :=
    BitVec.eq_of_toNat_eq (by rw [BitVec.toNat_ushiftRight, Nat.shiftRight_eq_zero _ _ h]; rfl)
  rw [shiftMix, hshift]
  exact BitVec.xor_zero

theorem weakHash_eq_rotateRight (w x y z a b : U64) :
    weakHash w x y z a b =
      ⟨a + w + x + y + z, (b + (a + w) + z).rotateRight 21 + (a + w + x + y).rotateRight 44 + (a + w)⟩ := by
  simp only [weakHash, rotate64_eq_rotateRight, ← BitVec.add_assoc]
  rfl

/-- Settles O25: `fmix` is the five steps of R76, and FMIX completes with it. -/
theorem fmixCommand : Obligations.FmixCommand := by
  unfold Obligations.FmixCommand
  exact ⟨decodeWord_encode .fmix, by decide, fun s => ⟨rfl, rfl⟩⟩

/-- Settles O26: `mur` with its rotations as the library's, on the low halves of OPA and OPB. -/
theorem murCommand : Obligations.MurCommand := by
  unfold Obligations.MurCommand
  refine ⟨decodeWord_encode .mur, mur_zero_zero, fun s => ?_⟩
  have hmur := mur_eq_rotateRight s.params (low32 s.latched.opa) (low32 s.latched.opb)
  refine ⟨hmur, ?_⟩
  rw [exec, execMur, hmur]
  rfl

/-- Settles O27: SHIFTMIX completes with `shiftMix`, which is the identity below 2^47. -/
theorem shiftmixCommand : Obligations.ShiftmixCommand := by
  unfold Obligations.ShiftmixCommand
  refine ⟨decodeWord_encode .shiftmix, fun s => ⟨rfl, fun h => ?_⟩⟩
  rw [exec, execShiftmix, shiftMix_of_lt h, complete_eq_finished]

/-- Settles O28: `hash128to64` is the formula of R79, and the two corner cases are computed. -/
theorem hash128to64Command : Obligations.Hash128to64Command := by
  unfold Obligations.Hash128to64Command
  exact ⟨decodeWord_encode .hash128to64, by decide, by decide, fun s => ⟨rfl, rfl⟩⟩

/-- Settles O29: `weakHash` with its rotations as the library's; each lane has its own result register. -/
theorem weakhashCommand : Obligations.WeakhashCommand := by
  unfold Obligations.WeakhashCommand
  refine ⟨decodeWord_encode .weakhash, by decide, fun s => ?_⟩
  have hweak := weakHash_eq_rotateRight s.latched.opa s.latched.opb s.latched.opc s.latched.opd s.latched.ope
    s.latched.opf
  refine ⟨hweak, ?_⟩
  rw [exec, execWeakhash, hweak]
  rfl

/-! ### Memory primitives -/

section
variable {α : Type} {s : State} {off : U64} {w : Nat}

theorem memoryPrimitive_of_past (c : Result) (hm : s.latched.len.toNat ≤ s.params.maxlen.toNat)
    (h : s.latched.len.toNat < off.toNat + w) :
    checkLen s (checkOperand (pastBound off w s) s c) = .next (failed s 0x04) := by
  rw [checkLen_of_fits _ hm, checkOperand_of_past _ h]
  rfl

theorem memoryPrimitive_of_read {read : Option α} {a : α} (k : α → State)
    (hm : s.latched.len.toNat ≤ s.params.maxlen.toNat) (h : off.toNat + w ≤ s.latched.len.toNat) (ha : read = some a) :
    checkLen s (checkOperand (pastBound off w s) s (readOrFault read k)) = .next (k a) := by
  rw [checkLen_of_fits _ hm, checkOperand_of_inside _ h, ha, readOrFault_some]

end

/-- Settles O24: the three loads are memory primitives, and each reads the little-endian word of the bytes at `off`. -/
theorem fetchCommands : Obligations.FetchCommands := by
  unfold Obligations.FetchCommands
  refine ⟨decodeWord_encode .fetch32, decodeWord_encode .fetch64, decodeWord_encode .fetch8, fun s rd =>
    ⟨fun h => ⟨checkLen_of_big _ h, checkLen_of_big _ h, checkLen_of_big _ h⟩, fun hm => ?_⟩⟩
  exact ⟨memoryPrimitive_of_past _ hm, memoryPrimitive_of_past _ hm, memoryPrimitive_of_past _ hm,
    fun hin h => memoryPrimitive_of_read _ hm hin (fetch8_of_holdsAt h),
    fun hin h => memoryPrimitive_of_read _ hm hin (fetch32_of_holdsAt h),
    fun hin h => memoryPrimitive_of_read _ hm hin (fetch64_of_holdsAt h)⟩

/-- Settles O30: WEAKHASH_MEM is a memory primitive that reads 32 bytes and writes both result registers. -/
theorem weakhashMemCommand : Obligations.WeakhashMemCommand := by
  unfold Obligations.WeakhashMemCommand
  exact ⟨decodeWord_encode .weakhashMem, fun s rd => ⟨checkLen_of_big _, fun hm =>
    ⟨memoryPrimitive_of_past _ hm, fun hin h => memoryPrimitive_of_read _ hm hin (weakHashMem_of_holdsAt _ _ h)⟩⟩⟩

/-! ### Byte reversal -/

/-- `bswap32` of a word given by its four bytes (R82). -/
theorem bswap32_append (b₃ b₂ b₁ b₀ : U8) : bswap32 (b₃ ++ b₂ ++ b₁ ++ b₀) = b₀ ++ b₁ ++ b₂ ++ b₃ := by
  rw [bswap32_eq_append]
  simp (disch := decide) only [BitVec.extractLsb'_append_eq_of_le, BitVec.extractLsb'_append_eq_of_add_le,
    Nat.reduceSub, BitVec.extractLsb'_eq_self]

/-- `bswap32` is its own inverse (R82). -/
theorem bswap32_bswap32 (v : U32) : bswap32 (bswap32 v) = v := by
  rw [bswap32_eq_append v, bswap32_append, BitVec.extractLsb'_append_extractLsb'_eq_extractLsb' (by decide),
    BitVec.extractLsb'_append_extractLsb'_eq_extractLsb' (by decide),
    BitVec.extractLsb'_append_extractLsb'_eq_extractLsb' (by decide)]
  exact BitVec.extractLsb'_eq_self

/-- Only the four low bytes of an operand reach `bswap32` (30_encoding.md R62). -/
theorem bswap32_low32 (v : U64) :
    bswap32 (low32 v) = v.extractLsb' 0 8 ++ v.extractLsb' 8 8 ++ v.extractLsb' 16 8 ++ v.extractLsb' 24 8 := by
  rw [bswap32_eq_append]
  simp (disch := decide) only [low32, BitVec.extractLsb'_setWidth_of_le]

/-- Settles O31: the four low bytes of OPA in reverse order; a second reversal restores them. -/
theorem bswap32Command : Obligations.Bswap32Command := by
  unfold Obligations.Bswap32Command
  refine ⟨decodeWord_encode .bswap32, bswap32_bswap32, fun s => ⟨bswap32_low32 _, ?_⟩⟩
  rw [exec, execBswap32, bswap32_low32]
  rfl

end Sys2Proof.Machine
end

section
/-! SUPPORT. HASH32 (41_hash32.md): the value of each formula on written bytes, in the terms of the statements, and the
three steps of the command. -/

namespace Sys2Proof.Machine

/-! ### The short formulas on written bytes -/

/-- One byte of the fold of R98: the byte at `i`, SIGN-extended, goes into `b`, and `b` into `c`. -/
def hash32FoldByte (p : Params) (rd : Nat → U8) (x : U32 × U32) (i : Nat) : U32 × U32 :=
  (x.1 * p.c1 + (rd i).signExtend 32, x.2 ^^^ (x.1 * p.c1 + (rd i).signExtend 32))

/-- R99's third word starts at 0 below 8 bytes and at 4 from 8 bytes on. -/
theorem hash32_middle_word_offset {n : Nat} (hlo : 5 ≤ n) (hhi : n ≤ 12) : n / 2 &&& 4 = if n < 8 then 0 else 4 := by
  interval_cases n <;> decide

section
variable {m : Memory} {rd : Nat → U8} {p : Params} {n : U64} (h : holds m rd n.toNat)
include h

theorem hash32Fold_of_holds {k i : Nat} (b c : U32) (hk : i + k ≤ n.toNat) :
    hash32Fold p m i k b c = some ((List.range' i k).foldl (hash32FoldByte p rd) (b, c)) := by
  induction k generalizing i b c with
  | zero => rfl
  | succ k ih =>
    rw [hash32Fold, fetch8_of_holds h (by omega), List.range'_succ, List.foldl_cons]
    exact ih _ _ (by omega)

theorem hash32Len0to4_of_holds :
    hash32Len0to4 p m n =
      let bc := (List.range n.toNat).foldl (hash32FoldByte p rd) (0, 9)
      some (fmix (mur p bc.1 (mur p (n32 n) bc.2))) := by
  rw [hash32Len0to4, hash32Fold_of_holds h 0 9 (Nat.zero_add _).le, List.range_eq_range']
  rfl

theorem hash32Len5to12_of_holds (hlo : 5 ≤ n.toNat) (hhi : n.toNat ≤ 12) :
    hash32Len5to12 p m n =
      some (fmix (mur p (9 + word32 rd (if n.toNat < 8 then 0 else 4))
        (mur p (n32 n * 5 + word32 rd (n.toNat - 4)) (mur p (n32 n + word32 rd 0) (n32 n * 5))))) := by
  have hmid := hash32_middle_word_inside hlo hhi
  rw [hash32_middle_word_offset hlo hhi] at hmid
  simp (disch := omega) only [hash32Len5to12, fetch32_of_holds h, hash32_middle_word_offset hlo hhi]
  rfl

theorem hash32Len13to24_of_holds (hlo : 13 ≤ n.toNat) :
    hash32Len13to24 p m n =
      some (fmix (mur p (word32 rd (n.toNat - 4)) (mur p (word32 rd 0) (mur p (word32 rd (n.toNat / 2))
        (mur p (word32 rd (n.toNat - 8)) (mur p (word32 rd 4)
          (mur p (word32 rd (n.toNat / 2 - 4)) (n32 n)))))))) := by
  simp (disch := omega) only [hash32Len13to24, fetch32_of_holds h]
  rfl

end

/-! ### The steps of the command -/

section
variable {s : State}

/-- A short HASH32 completes in its SETUP step (R107). -/
theorem exec_hash32_of_short {d : U32} (hp : s.phase = .setup) (hm : s.latched.len.toNat ≤ s.params.maxlen.toNat)
    (hn : s.latched.len.toNat ≤ 24) (hd : hash32Short s.params s.inbuf s.latched.len = some d) :
    exec .hash32 s = .next (finished s (d.setWidth 64)) := by
  simp only [exec, execHash32, hp]
  rw [hash32Setup, checkLen_of_fits _ hm, if_pos hn, hd]
  rfl

/-- A long HASH32 enters the loop in its SETUP step (R102). -/
theorem exec_hash32_of_long {w : Work32} (hp : s.phase = .setup) (hm : s.latched.len.toNat ≤ s.params.maxlen.toNat)
    (hn : 25 ≤ s.latched.len.toNat) (hw : hash32Init s.params s.inbuf s.latched.len = some w) :
    exec .hash32 s = .next (startLoop (BitVec.ofNat 64 (chunks32 s.latched.len)) { s with work32 := w }) := by
  simp only [exec, execHash32, hp]
  rw [hash32Setup, checkLen_of_fits _ hm, if_neg (Nat.not_le.mpr hn), hw]
  rfl

/-- The LOOP step processes the chunk at OFF (R103). -/
theorem exec_hash32_of_loop {w : Work32} (hp : s.phase = .loop)
    (hw : hash32Chunk s.params s.inbuf s.off.toNat s.work32 = some w) :
    exec .hash32 s = .next (advanceLoop 20 { s with work32 := w }) := by
  simp only [exec, execHash32, hp]
  rw [hash32Loop, hw]
  rfl

/-- The FINAL step completes with the digest and retires H, G, F (R104). -/
theorem exec_hash32_of_final (hp : s.phase = .final) :
    exec .hash32 s = .next (complete (zext64 (hash32Finish s.params s.work32)) (retire32 s)) := by
  simp only [exec, execHash32, hp]
  rfl

end

/-- Settles O33: the fold over the sign-extended bytes, by induction on their number. -/
theorem hash32UpTo4Bytes : Obligations.Hash32UpTo4Bytes := by
  unfold Obligations.Hash32UpTo4Bytes
  intro s rd hp hn hm h
  refine exec_hash32_of_short hp hm (by omega) ?_
  rw [hash32Short, if_pos hn]
  exact hash32Len0to4_of_holds h

/-- Settles O34: the band's three words are read at 0, n-4 and the middle offset, 0 or 4. -/
theorem hash32From5To12Bytes : Obligations.Hash32From5To12Bytes := by
  unfold Obligations.Hash32From5To12Bytes
  intro s rd hp hlo hhi hm h
  refine exec_hash32_of_short hp hm (by omega) ?_
  rw [hash32Short, if_neg (by omega), if_pos hhi]
  exact hash32Len5to12_of_holds h hlo hhi

/-- Settles O35: the band's six words all lie inside the input. -/
theorem hash32From13To24Bytes : Obligations.Hash32From13To24Bytes := by
  unfold Obligations.Hash32From13To24Bytes
  intro s rd hp hlo hhi hm h
  refine exec_hash32_of_short hp hm hhi ?_
  rw [hash32Short, if_neg (by omega), if_neg (by omega)]
  exact hash32Len13to24_of_holds h hlo

/-! ### The chunk processor on written bytes -/

/-- A 32-bit word inside a written window. -/
theorem fetch32_of_window {m : Memory} {rd : Nat → U8} {off k a : Nat} (h : holdsAt m rd off k) (hlo : off ≤ a)
    (hhi : a + 4 ≤ off + k) : fetch32 m a = some (word32 rd a) :=
  fetch32_of_holdsAt (holdsAt_mono h hlo hhi)

/-- Settles O36: the five tail words lie in the last 20 bytes, and the rotations are the library's. -/
theorem hash32LongSetup : Obligations.Hash32LongSetup := by
  unfold Obligations.Hash32LongSetup
  intro s rd hp hn hm h c1 n len32 premix round
  have hw : hash32Init s.params s.inbuf s.latched.len = some
      { h := round (round (len32 ^^^ premix (word32 rd (n - 4))) ^^^ premix (word32 rd (n - 16)))
        g := round (round (len32 * c1 ^^^ premix (word32 rd (n - 8))) ^^^ premix (word32 rd (n - 12)))
        f := round (len32 * c1 + premix (word32 rd (n - 20))) } := by
    simp (disch := omega) only [hash32Init, fetch32_of_window h, premix32, rotate32_eq_rotateRight]
    rfl
  rw [exec_hash32_of_long hp hm hn hw]
  rfl

/-- ITERS counts down to 0 in the step that starts from 1 (R103). -/
theorem advanceLoop_eq (c : U64) (s : State) :
    advanceLoop c s =
      { s with off := s.off + c, iters := s.iters - 1, phase := if s.iters = 1 then .final else .loop } := by
  have hlast : s.iters - 1 = 0 ↔ s.iters = 1 := sub_eq_zero
  simp only [advanceLoop, hlast]

/-- Settles O37: the chunk's five words lie in the 20 bytes at OFF, and the rotations are the library's. -/
theorem hash32LoopStep : Obligations.Hash32LoopStep := by
  unfold Obligations.Hash32LoopStep
  intro s rd hp h c1 off premix mix5 a0 a1 a2 a3 a4 h1 f1 g1 h2 g2 h3 f2
  have hw : hash32Chunk s.params s.inbuf s.off.toNat s.work32 = some { f := g2, h := f2, g := h3 } := by
    simp (disch := omega) only [hash32Chunk, fetch32_of_window h, premix32, rotate32_eq_rotateRight]
    rfl
  rw [exec_hash32_of_loop hp hw, advanceLoop_eq]

theorem hash32Finish_eq_rotateRight (p : Params) (w : Work32) :
    hash32Finish p w =
      let g := (w.g.rotateRight 11 * p.c1).rotateRight 17 * p.c1
      let f := (w.f.rotateRight 11 * p.c1).rotateRight 17 * p.c1
      let h := (mix5 ((w.h + g).rotateRight 19)).rotateRight 17 * p.c1
      (mix5 ((h + f).rotateRight 19)).rotateRight 17 * p.c1 := by
  simp only [hash32Finish, rotate32_eq_rotateRight]
  rfl

/-- Settles O38: the digest's rotations are the library's, and retiring H, G, F draws free values for them alone. -/
theorem hash32FinalStep : Obligations.Hash32FinalStep := by
  unfold Obligations.Hash32FinalStep
  intro s hp
  refine ⟨(retire32 s).work32, (retire32 s).draws, ?_⟩
  rw [exec_hash32_of_final hp, hash32Finish_eq_rotateRight]
  rfl

end Sys2Proof.Machine
end

section
/-! SUPPORT. A long digest as a run (60_exceptions.md R138): engine steps of a BUSY engine with no event waiting, with
the old result in RESULT until the last of them, and HASH32's run from SETUP to its completion (41_hash32.md R106). -/

namespace Sys2Proof.Machine

/-! ### Runs of a BUSY engine -/

/-- `k` engine steps with no event waiting, each taken while BUSY. -/
inductive BusyRun : Nat → State → State → Prop where
  | refl (s : State) : BusyRun 0 s s
  | step {k : Nat} {s u t : State} (hev : s.events = []) (hb : s.busy = true) (hs : engineStep s = .next u)
      (h : BusyRun k u t) : BusyRun (k + 1) s t

section
variable {k : Nat} {s t : State}

theorem BusyRun.of_exec {i : Instr} (hev : s.events = []) (hb : s.busy = true) (hc : current s = .ok i)
    (he : exec i s = .next t) : BusyRun 1 s t :=
  .step hev hb ((engineStep_of_busy hb hc).trans he) (.refl t)

theorem BusyRun.trans {j : Nat} {u : State} (h : BusyRun j s u) (h' : BusyRun k u t) : BusyRun (j + k) s t := by
  induction h with
  | refl => rwa [Nat.zero_add]
  | step hev hb hs _ ih =>
    rw [Nat.succ_add]
    exact .step hev hb hs (ih h')

theorem BusyRun.run_eq (h : BusyRun k s t) : run k s = .next t := by
  induction h with
  | refl s => exact run_zero s
  | step hev _ hs _ ih => rw [run_succ_of_next ((step_nil hev).trans hs), ih]

/-- Before its last step the run is BUSY, and RESULT is that of its first state (70_reset_and_hazards.md R159). -/
theorem BusyRun.stale (h : BusyRun k s t) {j : Nat} (hj : j < k) :
    ∃ u, run j s = .next u ∧ u.busy = true ∧ u.result = s.result := by
  induction h generalizing j with
  | refl => omega
  | @step k s u t hev hb hs _ ih =>
    cases j with
    | zero => exact ⟨s, run_zero s, hb, rfl⟩
    | succ j =>
      obtain ⟨v, hrun, hbusy, hresult⟩ := ih (Nat.lt_of_succ_lt_succ hj)
      obtain ⟨u', hu', hb', -⟩ := ih (Nat.zero_lt_of_lt (Nat.lt_of_succ_lt_succ hj))
      obtain rfl : u = u' := by simpa using hu'
      have hstale : u.result = s.result := ((engineStep_stepEnd hb hs).stale_of_busy hb').1
      exact ⟨v, (run_succ_of_next ((step_nil hev).trans hs)).trans hrun, hbusy, hresult.trans hstale⟩

end

/-! ### The loop of a long digest -/

/-- The engine in the loop of a long digest: `k` chunks are left, from `off` on. -/
def State.inLoop (s : State) (off : U64) (k : Nat) : State :=
  { s with off := off, iters := BitVec.ofNat 64 k, phase := if k = 0 then .final else .loop }

theorem startLoop_eq_inLoop (s : State) {k : Nat} (hk : k ≠ 0) : startLoop (BitVec.ofNat 64 k) s = s.inLoop 0 k := by
  rw [startLoop, State.inLoop, if_neg hk]

/-- The end of a LOOP step moves on by one chunk. -/
theorem advanceLoop_inLoop (c : U64) (s : State) (off : U64) {k : Nat} (hk : k < 2 ^ 64) :
    advanceLoop c (s.inLoop off (k + 1)) = s.inLoop (off + c) k := by
  have hpred : BitVec.ofNat 64 (k + 1) - 1 = BitVec.ofNat 64 k := by
    rw [BitVec.ofNat_add]
    exact add_sub_cancel_right _ _
  have hlast : BitVec.ofNat 64 k = 0 ↔ k = 0 := by
    rw [← BitVec.toNat_inj, BitVec.toNat_ofNat, Nat.mod_eq_of_lt hk]
    rfl
  simp only [advanceLoop, State.inLoop, hpred, hlast]

/-! ### The chunks of HASH32 -/

theorem hash32Chunks_exists_of_holds {m : Memory} {rd : Nat → U8} {p : Params} {n : U64} (h : holds m rd n.toNat)
    {k off : Nat} (w : Work32) (hk : off + 20 * k ≤ n.toNat) : ∃ w', hash32Chunks p m k off w = some w' := by
  induction k generalizing off w with
  | zero => exact ⟨w, rfl⟩
  | succ k ih =>
    obtain ⟨w₁, hw₁⟩ := hash32Chunk_exists_of_holds (p := p) h w (show off + 20 ≤ n.toNat by omega)
    rw [hash32Chunks, hw₁]
    exact ih w₁ (by omega)

/-- H, G, F replaced by others. -/
def State.withWork32 (w : Work32) (s : State) : State := { s with work32 := w }

/-- `k` LOOP steps of HASH32 process the next `k` chunks of the input; OFF does not wrap. -/
theorem hash32_loop_busyRun {s : State} (hev : s.events = []) (hc : current s = .ok .hash32) {k : Nat} {w w' : Work32}
    {off : U64} (hoff : off.toNat + 20 * k < 2 ^ 64)
    (hw : hash32Chunks s.params s.inbuf k off.toNat w = some w') :
    ∃ off', BusyRun k ((s.withWork32 w).inLoop off k) ((s.withWork32 w').inLoop off' 0) := by
  induction k generalizing w off with
  | zero =>
    cases hw
    exact ⟨off, .refl _⟩
  | succ k ih =>
    obtain ⟨w₁, hw₁, hrest⟩ := Option.bind_eq_some_iff.mp hw
    have hnext : (off + 20).toNat = off.toNat + 20 := by bv_omega
    obtain ⟨off', hrun⟩ := ih (w := w₁) (off := off + 20) (by omega) (hnext ▸ hrest)
    have hstep : engineStep ((s.withWork32 w).inLoop off (k + 1)) = .next ((s.withWork32 w₁).inLoop (off + 20) k) := by
      rw [← advanceLoop_inLoop 20 _ off (by omega),
        engineStep_of_busy (s := (s.withWork32 w).inLoop off (k + 1)) rfl hc]
      exact exec_hash32_of_loop rfl hw₁
    exact ⟨off', .step hev rfl hstep hrun⟩

/-- Settles O39: SETUP enters the loop with ITERS = ⌊(n−1)/20⌋, the LOOP steps process the chunks of the function view
by induction on their number, and FINAL completes with the digest of the last working state. -/
theorem hash32EngineComputesFunctionView : Obligations.Hash32EngineComputesFunctionView := by
  unfold Obligations.Hash32EngineComputesFunctionView
  intro s hev hp hc hn hm hw
  obtain ⟨rd, h⟩ := holds_of_written hw
  have hinside : 20 * chunks32 s.latched.len ≤ s.latched.len.toNat - 1 := Nat.mul_div_le _ _
  have hsome : chunks32 s.latched.len ≠ 0 := (Nat.div_pos (by omega) (by omega)).ne'
  obtain ⟨w₀, hinit⟩ := hash32Init_exists_of_holds (p := s.params) h hn
  obtain ⟨w, hchunks⟩ := hash32Chunks_exists_of_holds (p := s.params) h (off := 0) w₀
    (show 0 + 20 * chunks32 s.latched.len ≤ s.latched.len.toNat by omega)
  have hview : hash32View s.params s.inbuf s.latched.len = some (hash32Finish s.params w) := by
    rw [hash32View, if_neg (by omega), hinit, Option.bind_eq_bind, Option.bind_some, hchunks]
    rfl
  have hsetup : exec .hash32 s = .next ((s.withWork32 w₀).inLoop 0 (chunks32 s.latched.len)) := by
    rw [exec_hash32_of_long hp hm hn hinit, startLoop_eq_inLoop _ hsome]
    rfl
  obtain ⟨off, hloop⟩ := hash32_loop_busyRun hev hc (off := 0)
    (show 0 + 20 * chunks32 s.latched.len < 2 ^ 64 by omega) hchunks
  have hfinal := exec_hash32_of_final (s := (s.withWork32 w).inLoop off 0) rfl
  have hrun := ((BusyRun.of_exec hev ((busy_iff s).mpr (by simp [hp])) hc hsetup).trans hloop).trans
    (BusyRun.of_exec hev rfl hc hfinal)
  exact ⟨hash32Finish s.params w, _, _, off, hview, hrun.run_eq, fun j hj => hrun.stale hj⟩

end Sys2Proof.Machine
end

section
/-! SUPPORT. The Hash64 family (42_hash64.md, 43_hash64_seeded.md): the value of each formula on written bytes, in the
terms of the statements, and the three steps that HASH64, HASH64_SEED and HASH64_SEEDS share. -/

namespace Sys2Proof.Machine

/-! ### The steps of a Hash64-family command -/

/-- The three commands take the same steps, each with its own post-processing of the digest (R126). -/
theorem exec_eq_hash64Step {i : Instr} (hi : isHash64 i = true) (s : State) :
    exec i s = hash64Step (digestResult i s) s := by
  cases i with
  | hash64 | hash64Seed | hash64Seeds => rfl
  | _ => cases hi

section
variable {i : Instr} {s : State} (hi : isHash64 i = true)
include hi

/-- A short input completes in the SETUP step (R123). -/
theorem exec_hash64_of_short {d : U64} (hp : s.phase = .setup) (hm : s.latched.len.toNat ≤ s.params.maxlen.toNat)
    (hn : s.latched.len.toNat ≤ 64) (hd : hash64Short s.params s.inbuf s.latched.len = some d) :
    exec i s = .next (finished s (digestResult i s d)) := by
  simp only [exec_eq_hash64Step hi, hash64Step, hp]
  rw [hash64Setup, checkLen_of_fits _ hm, if_pos hn, hd]
  rfl

/-- A long input enters the loop in the SETUP step (R118). -/
theorem exec_hash64_of_long {w : Work64} (hp : s.phase = .setup) (hm : s.latched.len.toNat ≤ s.params.maxlen.toNat)
    (hn : 65 ≤ s.latched.len.toNat) (hw : hash64Init s.params s.inbuf s.latched.len = some w) :
    exec i s = .next (startLoop (BitVec.ofNat 64 (chunks64 s.latched.len)) { s with work64 := w }) := by
  simp only [exec_eq_hash64Step hi, hash64Step, hp]
  rw [hash64Setup, checkLen_of_fits _ hm, if_neg (Nat.not_le.mpr hn), hw]
  rfl

/-- The LOOP step processes the chunk at OFF (R119). -/
theorem exec_hash64_of_loop {w : Work64} (hp : s.phase = .loop)
    (hw : hash64Chunk s.params s.inbuf s.off.toNat s.work64 = some w) :
    exec i s = .next (advanceLoop 64 { s with work64 := w }) := by
  simp only [exec_eq_hash64Step hi, hash64Step, hp]
  rw [hash64Loop, hw]
  rfl

/-- The FINAL step completes with the post-processed digest and retires X, Y, Z, V, W (R120, R126). -/
theorem exec_hash64_of_final (hp : s.phase = .final) :
    exec i s = .next (complete (digestResult i s (hash64Finish s.params s.work64)) (retire64 s)) := by
  simp only [exec_eq_hash64Step hi, hash64Step, hp]
  rfl

end

/-! ### The short formulas on written bytes -/

section
variable {m : Memory} {rd : Nat → U8} {p : Params} {n : U64} (h : holds m rd n.toNat)
include h

theorem hashLen0to16_of_9to16 (hlo : 9 ≤ n.toNat) (hhi : n.toNat ≤ 16) :
    hashLen0to16 p m n =
      some (hash128to64 ⟨word64 rd 0, (word64 rd (n.toNat - 8) + n).rotateRight n.toNat⟩ ^^^
        word64 rd (n.toNat - 8)) := by
  rw [hashLen0to16, dif_pos ⟨hlo, hhi⟩]
  simp (disch := omega) only [hashLen9to16, fetch64_of_holds h, rotateByAtLeast1_eq_rotateRight]
  rfl

theorem hashLen0to16_of_4to8 (hlo : 4 ≤ n.toNat) (hhi : n.toNat ≤ 8) :
    hashLen0to16 p m n =
      some (hash128to64 ⟨n + (zext64 (word32 rd 0) <<< 3), zext64 (word32 rd (n.toNat - 4))⟩) := by
  rw [hashLen0to16, dif_neg (by omega), if_pos hlo]
  simp (disch := omega) only [hashLen4to8, fetch32_of_holds h]
  rfl

theorem hashLen0to16_of_1to3 (hlo : 1 ≤ n.toNat) (hhi : n.toNat ≤ 3) :
    hashLen0to16 p m n =
      let y : U32 := (rd 0).setWidth 32 + ((rd (n.toNat / 2)).setWidth 32 <<< 8)
      let z : U32 := n32 n + ((rd (n.toNat - 1)).setWidth 32 <<< 2)
      some (shiftMix (zext64 y * p.k2 ^^^ zext64 z * p.k3) * p.k2) := by
  rw [hashLen0to16, dif_neg (by omega), if_neg (by omega), if_pos hlo]
  simp (disch := omega) only [hashLen1to3, fetch8_of_holds h]
  rfl

theorem hashLen17to32_of_holds (hlo : 17 ≤ n.toNat) :
    hashLen17to32 p m n =
      let a := word64 rd 0 * p.k1
      let b := word64 rd 8
      let c := word64 rd (n.toNat - 8) * p.k2
      let d := word64 rd (n.toNat - 16) * p.k0
      some (hash128to64 ⟨(a - b).rotateRight 43 + c.rotateRight 30 + d, a + (b ^^^ p.k3).rotateRight 20 - c + n⟩) := by
  simp (disch := omega) only [hashLen17to32, fetch64_of_holds h, rotate64_eq_rotateRight]
  rfl

theorem frontView_of_holds (hlo : 33 ≤ n.toNat) :
    frontView p m n =
      let z := word64 rd 24
      let a1 := word64 rd 0 + (n + word64 rd (n.toNat - 16)) * p.k0
      let a2 := a1 + word64 rd 8
      let a3 := a2 + word64 rd 16
      some (a3 + z, (a1 + z).rotateRight 52 + a3.rotateRight 31 + (a1.rotateRight 37 + a2.rotateRight 7)) := by
  simp (disch := omega) only [frontView, fetch64_of_holds h, rotate64_eq_rotateRight]
  rfl

theorem backView_of_holds (hlo : 33 ≤ n.toNat) :
    backView m n =
      let z := word64 rd (n.toNat - 8)
      let b1 := word64 rd 16 + word64 rd (n.toNat - 32)
      let b2 := b1 + word64 rd (n.toNat - 24)
      let b3 := b2 + word64 rd (n.toNat - 16)
      some (b3 + z, (b1 + z).rotateRight 52 + b3.rotateRight 31 + (b1.rotateRight 37 + b2.rotateRight 7)) := by
  simp (disch := omega) only [backView, fetch64_of_holds h, rotate64_eq_rotateRight]
  rfl

end

theorem hashLen0to16_of_zero {p : Params} {m : Memory} {n : U64} (hn : n.toNat = 0) :
    hashLen0to16 p m n = some p.k2 := by
  rw [hashLen0to16, dif_neg (by omega), if_neg (by omega), if_neg (by omega)]

/-- Settles O40: one branch of the sub-dispatch on the length for each clause; the empty input reads no byte. -/
theorem hash64UpTo16Bytes : Obligations.Hash64UpTo16Bytes := by
  unfold Obligations.Hash64UpTo16Bytes
  intro i s rd hi hp hm h p len n
  have hband {d : U64} (hn : n ≤ 16) (hd : hashLen0to16 p s.inbuf len = some d) :
      exec i s = .next (finished s (digestResult i s d)) :=
    exec_hash64_of_short hi hp hm (Nat.le_trans hn (by decide)) ((if_pos hn).trans hd)
  exact ⟨fun hlo hhi => hband hhi (hashLen0to16_of_9to16 h hlo hhi),
    fun hlo hhi => hband (by omega) (hashLen0to16_of_4to8 h hlo hhi),
    fun hlo hhi => hband (by omega) (hashLen0to16_of_1to3 h hlo hhi),
    fun hn => hband (by omega) (hashLen0to16_of_zero hn)⟩

/-- Settles O41: the band's four words all lie inside the input, and the rotations are the library's. -/
theorem hash64From17To32Bytes : Obligations.Hash64From17To32Bytes := by
  unfold Obligations.Hash64From17To32Bytes
  intro i s rd hi hp hlo hhi hm h
  refine exec_hash64_of_short hi hp hm (by omega) ?_
  rw [hash64Short, if_neg (by omega), if_pos hhi]
  exact hashLen17to32_of_holds h hlo

/-- Settles O42: each view reads its words inside the input, and the digest combines the two views. -/
theorem hash64From33To64Bytes : Obligations.Hash64From33To64Bytes := by
  unfold Obligations.Hash64From33To64Bytes
  intro i s rd hi hp hlo hhi hm h
  refine exec_hash64_of_short hi hp hm hhi ?_
  rw [hash64Short, if_neg (by omega), if_neg (by omega), hashLen33to64, frontView_of_holds h hlo,
    backView_of_holds h hlo]
  rfl

/-! ### The chunk processor on written bytes -/

section
variable {m : Memory} {rd : Nat → U8} {off k a : Nat} (h : holdsAt m rd off k) (hlo : off ≤ a)
include h hlo

/-- A 64-bit word inside a written window. -/
theorem fetch64_of_window (hhi : a + 8 ≤ off + k) : fetch64 m a = some (word64 rd a) :=
  fetch64_of_holdsAt (holdsAt_mono h hlo hhi)

/-- Four consecutive words inside a written window. -/
theorem weakHashMem_of_window (x y : U64) (hhi : a + 32 ≤ off + k) :
    weakHashMem m a x y =
      some (weakHash (word64 rd a) (word64 rd (a + 8)) (word64 rd (a + 16)) (word64 rd (a + 24)) x y) :=
  weakHashMem_of_holdsAt x y (holdsAt_mono h hlo hhi)

end

/-- Settles O43: all words but the first one lie in the last 64 bytes. -/
theorem hash64LongSetup : Obligations.Hash64LongSetup := by
  unfold Obligations.Hash64LongSetup
  intro i s rd hi hp hn hm htail hhead k1 n weakAt x y z
  have hw : hash64Init s.params s.inbuf s.latched.len = some
      { x := x * k1 + word64 rd 0
        y := y
        z := z
        v := weakAt (n - 64) s.latched.len z
        w := weakAt (n - 32) (y + k1) x } := by
    simp (disch := omega) only [hash64Init, fetch64_of_holdsAt hhead, fetch64_of_window htail,
      weakHashMem_of_window htail]
    rfl
  rw [exec_hash64_of_long hi hp hm hn hw]
  rfl

/-- Settles O44: the chunk's eight words lie in the 64 bytes at OFF, and the rotations are the library's. -/
theorem hash64LoopStep : Obligations.Hash64LoopStep := by
  unfold Obligations.Hash64LoopStep
  intro i s rd hi hp h k1 off o weakAt x y z
  have hw : hash64Chunk s.params s.inbuf s.off.toNat s.work64 = some
      { x := z
        y := y
        z := x
        v := weakAt off (o.v.hi * k1) (x + o.w.lo)
        w := weakAt (off + 32) (z + o.w.hi) (y + word64 rd (off + 16)) } := by
    simp (disch := omega) only [hash64Chunk, fetch64_of_window h, weakHashMem_of_window h, rotate64_eq_rotateRight]
    rfl
  rw [exec_hash64_of_loop hi hp hw, advanceLoop_eq]

/-- Settles O45: retiring X, Y, Z, V, W draws free values for them alone. -/
theorem hash64FinalStep : Obligations.Hash64FinalStep := by
  unfold Obligations.Hash64FinalStep
  intro i s hi hp
  exact ⟨(retire64 s).work64, (retire64 s).draws, exec_hash64_of_final hi hp⟩

end Sys2Proof.Machine
end

section
/-! SUPPORT. The run of a long Hash64-family command from SETUP to its completion (42_hash64.md R122, 60_exceptions.md
R138). -/

namespace Sys2Proof.Machine

theorem hash64Chunks_exists_of_holds {m : Memory} {rd : Nat → U8} {p : Params} {n : U64} (h : holds m rd n.toNat)
    {k off : Nat} (w : Work64) (hk : off + 64 * k ≤ n.toNat) : ∃ w', hash64Chunks p m k off w = some w' := by
  induction k generalizing off w with
  | zero => exact ⟨w, rfl⟩
  | succ k ih =>
    obtain ⟨w₁, hw₁⟩ := hash64Chunk_exists_of_holds (p := p) h w (show off + 64 ≤ n.toNat by omega)
    rw [hash64Chunks, hw₁]
    exact ih w₁ (by omega)

/-- X, Y, Z, V, W replaced by others. -/
def State.withWork64 (w : Work64) (s : State) : State := { s with work64 := w }

section
variable {i : Instr} {s : State} (hi : isHash64 i = true) (hev : s.events = []) (hc : current s = .ok i)
include hi hev hc

/-- `k` LOOP steps process the next `k` chunks of the input; OFF does not wrap. -/
theorem hash64_loop_busyRun {k : Nat} {w w' : Work64} {off : U64} (hoff : off.toNat + 64 * k < 2 ^ 64)
    (hw : hash64Chunks s.params s.inbuf k off.toNat w = some w') :
    ∃ off', BusyRun k ((s.withWork64 w).inLoop off k) ((s.withWork64 w').inLoop off' 0) := by
  induction k generalizing w off with
  | zero =>
    cases hw
    exact ⟨off, .refl _⟩
  | succ k ih =>
    obtain ⟨w₁, hw₁, hrest⟩ := Option.bind_eq_some_iff.mp hw
    have hnext : (off + 64).toNat = off.toNat + 64 := by bv_omega
    obtain ⟨off', hrun⟩ := ih (w := w₁) (off := off + 64) (by omega) (hnext ▸ hrest)
    have hstep : engineStep ((s.withWork64 w).inLoop off (k + 1)) = .next ((s.withWork64 w₁).inLoop (off + 64) k) := by
      rw [← advanceLoop_inLoop 64 _ off (by omega),
        engineStep_of_busy (s := (s.withWork64 w).inLoop off (k + 1)) rfl hc]
      exact exec_hash64_of_loop hi rfl hw₁
    exact ⟨off', .step hev rfl hstep hrun⟩

/-- A long digest as one BUSY run: SETUP, a LOOP step for each chunk, and FINAL, which completes (R138). -/
theorem hash64_busyRun {w₀ w : Work64} (hp : s.phase = .setup) (hn : 65 ≤ s.latched.len.toNat)
    (hm : s.latched.len.toNat ≤ s.params.maxlen.toNat)
    (hinit : hash64Init s.params s.inbuf s.latched.len = some w₀)
    (hchunks : hash64Chunks s.params s.inbuf (chunks64 s.latched.len) 0 w₀ = some w) :
    ∃ off, BusyRun (1 + chunks64 s.latched.len + 1) s
      (complete (digestResult i s (hash64Finish s.params w)) (retire64 ((s.withWork64 w).inLoop off 0))) := by
  have hinside : 64 * chunks64 s.latched.len ≤ s.latched.len.toNat - 1 := Nat.mul_div_le _ _
  have hsome : chunks64 s.latched.len ≠ 0 := (Nat.div_pos (by omega) (by omega)).ne'
  have hsetup : exec i s = .next ((s.withWork64 w₀).inLoop 0 (chunks64 s.latched.len)) := by
    rw [exec_hash64_of_long hi hp hm hn hinit, startLoop_eq_inLoop _ hsome]
    rfl
  obtain ⟨off, hloop⟩ := hash64_loop_busyRun hi hev hc (off := 0)
    (show 0 + 64 * chunks64 s.latched.len < 2 ^ 64 by omega) hchunks
  have hfinal := exec_hash64_of_final (s := (s.withWork64 w).inLoop off 0) hi rfl
  have hbusy : s.busy = true := (busy_iff s).mpr (by simp [hp])
  exact ⟨off, ((BusyRun.of_exec hev hbusy hc hsetup).trans hloop).trans (BusyRun.of_exec hev rfl hc hfinal)⟩

end

/-- Settles O46: the function view runs the chunks that the LOOP steps process, by induction on their number, and the
BUSY run from SETUP ends with its digest. -/
theorem hash64EngineComputesFunctionView : Obligations.Hash64EngineComputesFunctionView := by
  unfold Obligations.Hash64EngineComputesFunctionView
  intro i s hi hev hp hc hn hm hw
  obtain ⟨rd, h⟩ := holds_of_written hw
  have hinside : 64 * chunks64 s.latched.len ≤ s.latched.len.toNat - 1 := Nat.mul_div_le _ _
  obtain ⟨w₀, hinit⟩ := hash64Init_exists_of_holds (p := s.params) h hn
  obtain ⟨w, hchunks⟩ := hash64Chunks_exists_of_holds (p := s.params) h (off := 0) w₀
    (show 0 + 64 * chunks64 s.latched.len ≤ s.latched.len.toNat by omega)
  have hview : hash64View s.params s.inbuf s.latched.len = some (hash64Finish s.params w) := by
    rw [hash64View, if_neg (by omega), hinit, Option.bind_eq_bind, Option.bind_some, hchunks]
    rfl
  obtain ⟨off, hrun⟩ := hash64_busyRun hi hev hc hp hn hm hinit hchunks
  exact ⟨hash64Finish s.params w, _, _, off, hview, hrun.run_eq, fun j hj => hrun.stale hj⟩

end Sys2Proof.Machine
end

section
/-! SUPPORT. The seeded commands (43_hash64_seeded.md): the seeds enter a step only through the post-processing of the
digest, so two commands with the same post-processing take the same steps. -/

namespace Sys2Proof.Machine

/-- The latched copies replaced by others. -/
def State.withLatched (l : OperandRegs) (s : State) : State := { s with latched := l }

section
variable {l : OperandRegs} {s : State} (hlen : l.len = s.latched.len)
include hlen

/-- Of the latched copies the SETUP step looks at LEN alone. -/
theorem hash64Setup_withLatched (post : U64 → U64) :
    hash64Setup post (s.withLatched l) = mapNext (State.withLatched l) (hash64Setup post s) := by
  have hlen' : (s.withLatched l).latched.len = s.latched.len := hlen
  have htooBig : lenTooBig (s.withLatched l) = lenTooBig s := by rw [lenTooBig, hlen']; rfl
  unfold hash64Setup
  rw [mapNext_checkLen (s' := s.withLatched l) _ htooBig rfl, mapNext_ite, mapNext_readOrFault, mapNext_readOrFault,
    hlen']
  rfl

/-- With its post-processing given, a Hash64-family step looks at no latched copy but LEN (R126), and they stay. -/
theorem hash64Step_withLatched (post : U64 → U64) :
    hash64Step post (s.withLatched l) = mapNext (State.withLatched l) (hash64Step post s) := by
  have hphase : (s.withLatched l).phase = s.phase := rfl
  unfold hash64Step
  rw [hphase]
  split
  case h_1 | h_2 => exact hash64Setup_withLatched hlen post
  case h_3 =>
    unfold hash64Loop
    rw [mapNext_readOrFault]
    rfl
  case h_4 => rfl

end

/-- The operands of the one-seed form: SEED1 stands as its seed (R125). -/
def OperandRegs.withSeed1AsSeed (r : OperandRegs) : OperandRegs := { r with seed0 := r.seed1 }

/-- HASH64_SEEDS with L(SEED0) = K2 makes of a digest what HASH64_SEED makes of it with L(SEED1) as its seed (R125). -/
theorem digestResult_hash64Seeds_of_seed0_eq_k2 {s : State} (h : s.latched.seed0 = s.params.k2) :
    digestResult .hash64Seeds s =
      digestResult .hash64Seed (s.withLatched s.latched.withSeed1AsSeed) := by
  funext d
  exact congrArg (fun seed0 => hash128to64 ⟨d - seed0, s.latched.seed1⟩) h

/-- HASH64_SEED with seed 0 takes the digest K2 to 0 (R127). -/
theorem digestResult_hash64Seed_k2 {s : State} (h : s.latched.seed0 = 0) :
    digestResult .hash64Seed s s.params.k2 = 0 := by
  have hzero : hash128to64 ⟨0, 0⟩ = 0 := by decide
  rw [digestResult, h, sub_self, hzero]

/-- Settles O47: the two commands post-process alike and the step looks at no other latched copy than LEN; the empty
input's digest is K2, which seed 0 takes to 0. -/
theorem seedIsTwoSeedsWithK2 : Obligations.SeedIsTwoSeedsWithK2 := by
  unfold Obligations.SeedIsTwoSeedsWithK2
  constructor
  · intro s hseed
    calc exec .hash64Seeds s
      _ = hash64Step (digestResult .hash64Seed (s.withLatched s.latched.withSeed1AsSeed)) s := by
        rw [exec_eq_hash64Step rfl, digestResult_hash64Seeds_of_seed0_eq_k2 hseed]
      _ = mapNext (State.withLatched s.latched) (exec .hash64Seed (s.withLatched s.latched.withSeed1AsSeed)) :=
        hash64Step_withLatched (l := s.latched) (s := s.withLatched s.latched.withSeed1AsSeed) rfl _
  · intro s hsetup hempty hseed
    have hlen : s.latched.len.toNat = 0 := by rw [hempty]; rfl
    have hdigest : hash64Short s.params s.inbuf s.latched.len = some s.params.k2 := by
      rw [hash64Short, if_pos (by omega), hashLen0to16_of_zero hlen]
    rw [exec_hash64_of_short rfl hsetup (by omega) (by omega) hdigest, digestResult_hash64Seed_k2 hseed]

end Sys2Proof.Machine
end

section
/-! SUPPORT. Completion (60_exceptions.md section 2, R138): a BUSY engine with its input written runs, one engine step at a
time, through exactly the steps it still needs, and is then idle with DONE = 1. -/

namespace Sys2Proof.Machine

/-- The BUSY run of the steps left ends with the command: by induction on their number, each step leaving one less. -/
theorem busyRun_of_stepsLeft {n : Nat} {s : State} (h : s.Inv) (hw : s.InputWritten) (hev : s.events = [])
    (hidle : s.busy = false → s.status.done = true) (hn : stepsLeft s = n) :
    ∃ t, BusyRun n s t ∧ t.busy = false ∧ t.status.done = true := by
  induction n generalizing s with
  | zero =>
    have hb : s.busy = false := by
      rw [Bool.eq_false_iff, Ne, busy_iff_stepsLeft_pos]
      omega
    exact ⟨s, .refl s, hb, hidle hb⟩
  | succ n ih =>
    have hb : s.busy = true := (busy_iff_stepsLeft_pos s).mpr (by omega)
    obtain ⟨u, hu, hless⟩ := engineStep_progress h hb hw
    have f := engineStep_engineFrame hu
    obtain ⟨t, hrun, hend⟩ := ih (engineStep_keeps_inv h hu) (f.inputWritten hw) (f.events.trans hev)
      (engineStep_stepEnd hb hu).done_of_idle (by omega)
    exact ⟨t, .step hev hb hu hrun, hend⟩

/-- Settles O53: the BUSY run of the steps left ends with the command, and is BUSY before its last step. -/
theorem everyCommandCompletesInExactlyItsSteps : Obligations.EveryCommandCompletesInExactlyItsSteps := by
  unfold Obligations.EveryCommandCompletesInExactlyItsSteps
  intro s h hb hev hw
  obtain ⟨t, hrun, hidle, hdone⟩ := busyRun_of_stepsLeft h hw hev (fun hidle => by simp [hb] at hidle) rfl
  refine ⟨⟨t, hrun.run_eq, hidle, hdone⟩, fun j hj => ?_⟩
  obtain ⟨u, hu, hbusy, -⟩ := hrun.stale hj
  exact ⟨u, hu, hbusy⟩

end Sys2Proof.Machine
end

section
/-! SUPPORT. Faults and ERR_LEN (60_exceptions.md section 5, R133). A read faults exactly when a byte it reads has its
written mark clear (R149): each fetch reads its window, a sequence of reads reads what its parts read, so the bytes of each
formula are the union of its windows. -/

namespace Sys2Proof.Machine

/-! ### The bytes a read depends on -/

/-- The read has no value exactly when a byte in `A` has none. -/
def ReadsExactly {α : Type} (m : Memory) (A : Set Nat) (read : Option α) : Prop :=
  read = none ↔ ∃ a ∈ A, m.readByte a = none

section
variable {α β : Type} {m : Memory} {A B : Set Nat} {read : Option α}

theorem ReadsExactly.value (v : α) : ReadsExactly m ∅ (some v) := by simp [ReadsExactly]

/-- What is computed from a read reads the same bytes. -/
theorem ReadsExactly.map (f : α → β) (h : ReadsExactly m A read) : ReadsExactly m A (read.map f) :=
  Option.map_eq_none_iff.trans h

/-- A read followed by another reads the bytes of both, whatever value the first one had. -/
theorem ReadsExactly.bind {f : α → Option β} (h : ReadsExactly m A read) (hf : ∀ v, ReadsExactly m B (f v)) :
    ReadsExactly m (A ∪ B) (read >>= f) := by
  have hunion : (∃ a ∈ A ∪ B, m.readByte a = none) ↔ read = none ∨ ∃ a ∈ B, m.readByte a = none := by
    simp only [Set.mem_union, or_and_right, exists_or]
    rw [← show read = none ↔ _ from h]
  rw [ReadsExactly, hunion]
  cases read with
  | none => simp
  | some v =>
    rw [Option.bind_eq_bind, Option.bind_some, eq_false (Option.some_ne_none v), false_or]
    exact hf v

/-- The same bytes, written another way. -/
theorem ReadsExactly.of_mem_iff (h : ReadsExactly m A read) (hAB : ∀ a, a ∈ A ↔ a ∈ B) : ReadsExactly m B read :=
  Set.ext hAB ▸ h

/-- A command's continuation after a read faults exactly when the read has no value (R149). -/
theorem ReadsExactly.fault_iff (h : ReadsExactly m A read) (k : α → State) :
    readOrFault read k = .fault .unwrittenInbuf ↔ ∃ a ∈ A, m.readByte a = none :=
  readOrFault_fault.trans h

end

section
variable {m : Memory} (off : Nat)

theorem memRead_readsExactly (k : Nat) : ReadsExactly m (Set.Ico off (off + k)) (memRead m off k) := by
  rw [ReadsExactly, ← Option.not_isSome_iff_eq_none, memRead_isSome_iff]
  constructor
  · intro h
    simp only [not_forall, Option.not_isSome_iff_eq_none] at h
    obtain ⟨i, hi, hnone⟩ := h
    exact ⟨off + i, ⟨by omega, by omega⟩, hnone⟩
  · rintro ⟨a, ⟨hlo, hhi⟩, hnone⟩ h
    have := h (a - off) (by omega)
    rw [Nat.add_sub_cancel' hlo, hnone] at this
    cases this

theorem fetch8_readsExactly : ReadsExactly m (Set.Ico off (off + 1)) (fetch8 m off) :=
  (memRead_readsExactly off 1).map _

theorem fetch32_readsExactly : ReadsExactly m (Set.Ico off (off + 4)) (fetch32 m off) :=
  (memRead_readsExactly off 4).map _

theorem fetch64_readsExactly : ReadsExactly m (Set.Ico off (off + 8)) (fetch64 m off) :=
  (memRead_readsExactly off 8).map _

theorem weakHashMem_readsExactly (a b : U64) : ReadsExactly m (Set.Ico off (off + 32)) (weakHashMem m off a b) :=
  ((fetch64_readsExactly off).bind fun _ => (fetch64_readsExactly (off + 8)).bind fun _ =>
    (fetch64_readsExactly (off + 16)).bind fun _ => (fetch64_readsExactly (off + 24)).bind fun _ =>
      .value _).of_mem_iff (by grind)

end

/-! ### The bytes of HASH32's formulas (41_hash32.md) -/

section
variable {m : Memory} {p : Params} {n : U64}

theorem hash32Fold_readsExactly (i k : Nat) (b c : U32) :
    ReadsExactly m (Set.Ico i (i + k)) (hash32Fold p m i k b c) := by
  induction k generalizing i b c with
  | zero => exact (ReadsExactly.value (b, c)).of_mem_iff (by simp)
  | succ k ih =>
    exact ((fetch8_readsExactly i).bind fun _ => ih (i + 1) _ _).of_mem_iff (by grind)

theorem hash32Len0to4_readsExactly : ReadsExactly m (Set.Iio n.toNat) (hash32Len0to4 p m n) :=
  ((hash32Fold_readsExactly 0 n.toNat 0 9).bind fun _ => .value _).of_mem_iff (by simp)

theorem hash32Len5to12_readsExactly (hlo : 5 ≤ n.toNat) (hhi : n.toNat ≤ 12) :
    ReadsExactly m (Set.Iio n.toNat) (hash32Len5to12 p m n) := by
  refine ((fetch32_readsExactly 0).bind fun _ => (fetch32_readsExactly (n.toNat - 4)).bind fun _ =>
    (fetch32_readsExactly ((n.toNat / 2) &&& 4)).bind fun _ => .value _).of_mem_iff fun x => ?_
  simp only [Set.mem_union, Set.mem_Ico, Set.mem_Iio, Set.mem_empty_iff_false, or_false,
    hash32_middle_word_offset hlo hhi]
  split <;> omega

theorem hash32Len13to24_readsExactly (hlo : 13 ≤ n.toNat) (hhi : n.toNat ≤ 24) :
    ReadsExactly m (Set.Iio n.toNat) (hash32Len13to24 p m n) :=
  ((fetch32_readsExactly (n.toNat / 2 - 4)).bind fun _ => (fetch32_readsExactly 4).bind fun _ =>
    (fetch32_readsExactly (n.toNat - 8)).bind fun _ => (fetch32_readsExactly (n.toNat / 2)).bind fun _ =>
      (fetch32_readsExactly 0).bind fun _ => (fetch32_readsExactly (n.toNat - 4)).bind fun _ =>
        .value _).of_mem_iff (by grind)

/-- A short HASH32 reads every byte of its input. -/
theorem hash32Short_readsExactly (hn : n.toNat ≤ 24) : ReadsExactly m (Set.Iio n.toNat) (hash32Short p m n) := by
  unfold hash32Short
  split
  · exact hash32Len0to4_readsExactly
  · split
    · exact hash32Len5to12_readsExactly (by omega) (by omega)
    · exact hash32Len13to24_readsExactly (by omega) hn

/-- The SETUP step of a long HASH32 reads the last 20 bytes (R102). -/
theorem hash32Init_readsExactly (hn : 25 ≤ n.toNat) :
    ReadsExactly m (Set.Ico (n.toNat - 20) n.toNat) (hash32Init p m n) :=
  ((fetch32_readsExactly (n.toNat - 4)).bind fun _ => (fetch32_readsExactly (n.toNat - 8)).bind fun _ =>
    (fetch32_readsExactly (n.toNat - 16)).bind fun _ => (fetch32_readsExactly (n.toNat - 12)).bind fun _ =>
      (fetch32_readsExactly (n.toNat - 20)).bind fun _ => .value _).of_mem_iff (by grind)

/-- A LOOP step of HASH32 reads the chunk's 20 bytes (R103). -/
theorem hash32Chunk_readsExactly (off : Nat) (w : Work32) :
    ReadsExactly m (Set.Ico off (off + 20)) (hash32Chunk p m off w) :=
  ((fetch32_readsExactly (off + 0)).bind fun _ => (fetch32_readsExactly (off + 4)).bind fun _ =>
    (fetch32_readsExactly (off + 8)).bind fun _ => (fetch32_readsExactly (off + 12)).bind fun _ =>
      (fetch32_readsExactly (off + 16)).bind fun _ => .value _).of_mem_iff (by grind)

/-! ### The bytes of Hash64's formulas (42_hash64.md) -/

theorem hashLen9to16_readsExactly (h : 1 ≤ n.toNat ∧ n.toNat ≤ 63) (hlo : 9 ≤ n.toNat) (hhi : n.toNat ≤ 16) :
    ReadsExactly m (Set.Iio n.toNat) (hashLen9to16 m n h) :=
  ((fetch64_readsExactly 0).bind fun _ => (fetch64_readsExactly (n.toNat - 8)).bind fun _ =>
    .value _).of_mem_iff (by grind)

theorem hashLen4to8_readsExactly (hlo : 4 ≤ n.toNat) (hhi : n.toNat ≤ 8) :
    ReadsExactly m (Set.Iio n.toNat) (hashLen4to8 m n) :=
  ((fetch32_readsExactly 0).bind fun _ => (fetch32_readsExactly (n.toNat - 4)).bind fun _ =>
    .value _).of_mem_iff (by grind)

theorem hashLen1to3_readsExactly (hlo : 1 ≤ n.toNat) (hhi : n.toNat ≤ 3) :
    ReadsExactly m (Set.Iio n.toNat) (hashLen1to3 p m n) :=
  ((fetch8_readsExactly 0).bind fun _ => (fetch8_readsExactly (n.toNat / 2)).bind fun _ =>
    (fetch8_readsExactly (n.toNat - 1)).bind fun _ => .value _).of_mem_iff (by grind)

theorem hashLen0to16_readsExactly (hn : n.toNat ≤ 16) :
    ReadsExactly m (Set.Iio n.toNat) (hashLen0to16 p m n) := by
  unfold hashLen0to16
  split
  case isTrue h => exact hashLen9to16_readsExactly _ h.1 h.2
  case isFalse =>
    split
    · exact hashLen4to8_readsExactly (by omega) (by omega)
    · split
      · exact hashLen1to3_readsExactly (by omega) (by omega)
      · exact (ReadsExactly.value p.k2).of_mem_iff (by grind)

theorem hashLen17to32_readsExactly (hlo : 17 ≤ n.toNat) (hhi : n.toNat ≤ 32) :
    ReadsExactly m (Set.Iio n.toNat) (hashLen17to32 p m n) :=
  ((fetch64_readsExactly 0).bind fun _ => (fetch64_readsExactly 8).bind fun _ =>
    (fetch64_readsExactly (n.toNat - 8)).bind fun _ => (fetch64_readsExactly (n.toNat - 16)).bind fun _ =>
      .value _).of_mem_iff (by grind)

/-- The front view reads the first 32 bytes and the second last word (R115). -/
theorem frontView_readsExactly :
    ReadsExactly m (Set.Iio 32 ∪ Set.Ico (n.toNat - 16) (n.toNat - 16 + 8)) (frontView p m n) :=
  ((fetch64_readsExactly 24).bind fun _ => (fetch64_readsExactly 0).bind fun _ =>
    (fetch64_readsExactly (n.toNat - 16)).bind fun _ => (fetch64_readsExactly 8).bind fun _ =>
      (fetch64_readsExactly 16).bind fun _ => .value _).of_mem_iff (by grind)

/-- The back view reads the third word and the last 32 bytes (R116). -/
theorem backView_readsExactly (hn : 33 ≤ n.toNat) :
    ReadsExactly m (Set.Ico 16 24 ∪ Set.Ico (n.toNat - 32) n.toNat) (backView m n) :=
  ((fetch64_readsExactly 16).bind fun _ => (fetch64_readsExactly (n.toNat - 32)).bind fun _ =>
    (fetch64_readsExactly (n.toNat - 8)).bind fun _ => (fetch64_readsExactly (n.toNat - 24)).bind fun _ =>
      (fetch64_readsExactly (n.toNat - 16)).bind fun _ => .value _).of_mem_iff (by grind)

theorem hashLen33to64_readsExactly (hlo : 33 ≤ n.toNat) (hhi : n.toNat ≤ 64) :
    ReadsExactly m (Set.Iio n.toNat) (hashLen33to64 p m n) :=
  (frontView_readsExactly.bind fun _ => (backView_readsExactly hlo).bind fun _ =>
    .value _).of_mem_iff (by grind)

/-- A short Hash64-family command reads every byte of its input. -/
theorem hash64Short_readsExactly (hn : n.toNat ≤ 64) : ReadsExactly m (Set.Iio n.toNat) (hash64Short p m n) := by
  unfold hash64Short
  split
  · exact hashLen0to16_readsExactly (by omega)
  · split
    · exact hashLen17to32_readsExactly (by omega) (by omega)
    · exact hashLen33to64_readsExactly (by omega) hn

/-- The SETUP step of a long Hash64-family command reads the first word and the last 64 bytes (R118). -/
theorem hash64Init_readsExactly (hn : 65 ≤ n.toNat) :
    ReadsExactly m (Set.Iio 8 ∪ Set.Ico (n.toNat - 64) n.toNat) (hash64Init p m n) := by
  refine ((fetch64_readsExactly (n.toNat - 40)).bind fun _ => (fetch64_readsExactly (n.toNat - 16)).bind fun _ =>
    (fetch64_readsExactly (n.toNat - 56)).bind fun _ => (fetch64_readsExactly (n.toNat - 48)).bind fun _ =>
      (fetch64_readsExactly (n.toNat - 24)).bind fun _ => (weakHashMem_readsExactly (n.toNat - 64) _ _).bind fun _ =>
        (weakHashMem_readsExactly (n.toNat - 32) _ _).bind fun _ => (fetch64_readsExactly 0).bind fun _ =>
          .value _).of_mem_iff fun x => ?_
  simp only [Set.mem_union, Set.mem_Ico, Set.mem_Iio, Set.mem_empty_iff_false, or_false]
  omega

/-- A LOOP step of a Hash64-family command reads the chunk's 64 bytes (R119). -/
theorem hash64Chunk_readsExactly (off : Nat) (w : Work64) :
    ReadsExactly m (Set.Ico off (off + 64)) (hash64Chunk p m off w) :=
  ((fetch64_readsExactly (off + 8)).bind fun _ => (fetch64_readsExactly (off + 48)).bind fun _ =>
    (fetch64_readsExactly (off + 40)).bind fun _ => (weakHashMem_readsExactly off _ _).bind fun _ =>
      (fetch64_readsExactly (off + 16)).bind fun _ => (weakHashMem_readsExactly (off + 32) _ _).bind fun _ =>
        .value _).of_mem_iff (by grind)

end

/-! ### The faults of a command's step (R149) -/

section
variable {s : State} (hm : s.latched.len.toNat ≤ s.params.maxlen.toNat)
include hm

/-- A short HASH32 faults on any unwritten byte of its input. -/
theorem exec_hash32_fault_iff_of_short (hp : s.phase = .setup) (hn : s.latched.len.toNat ≤ 24) :
    exec .hash32 s = .fault .unwrittenInbuf ↔ ∃ a < s.latched.len.toNat, s.inbuf.readByte a = none := by
  simp only [exec, execHash32, hp]
  rw [hash32Setup, checkLen_of_fits _ hm, if_pos hn]
  exact (hash32Short_readsExactly hn).fault_iff _

/-- The SETUP step of a long HASH32 faults on any unwritten byte of the tail. -/
theorem exec_hash32_fault_iff_of_long (hp : s.phase = .setup) (hn : 25 ≤ s.latched.len.toNat) :
    exec .hash32 s = .fault .unwrittenInbuf ↔
      ∃ a ∈ Set.Ico (s.latched.len.toNat - 20) s.latched.len.toNat, s.inbuf.readByte a = none := by
  simp only [exec, execHash32, hp]
  rw [hash32Setup, checkLen_of_fits _ hm, if_neg (Nat.not_le.mpr hn)]
  exact (hash32Init_readsExactly hn).fault_iff _

/-- A short Hash64-family command faults on any unwritten byte of its input. -/
theorem exec_hash64_fault_iff_of_short {i : Instr} (hi : isHash64 i = true) (hp : s.phase = .setup)
    (hn : s.latched.len.toNat ≤ 64) :
    exec i s = .fault .unwrittenInbuf ↔ ∃ a < s.latched.len.toNat, s.inbuf.readByte a = none := by
  simp only [exec_eq_hash64Step hi, hash64Step, hp]
  rw [hash64Setup, checkLen_of_fits _ hm, if_pos hn]
  exact (hash64Short_readsExactly hn).fault_iff _

/-- The SETUP step of a long Hash64-family command faults on any unwritten byte of the first word or the tail. -/
theorem exec_hash64_fault_iff_of_long {i : Instr} (hi : isHash64 i = true) (hp : s.phase = .setup)
    (hn : 65 ≤ s.latched.len.toNat) :
    exec i s = .fault .unwrittenInbuf ↔
      ∃ a ∈ Set.Iio 8 ∪ Set.Ico (s.latched.len.toNat - 64) s.latched.len.toNat, s.inbuf.readByte a = none := by
  simp only [exec_eq_hash64Step hi, hash64Step, hp]
  rw [hash64Setup, checkLen_of_fits _ hm, if_neg (Nat.not_le.mpr hn)]
  exact (hash64Init_readsExactly hn).fault_iff _

/-- A memory primitive whose operand passes the check faults on any unwritten byte of its window. -/
theorem memoryPrimitive_fault_iff {α : Type} {off : U64} {w : Nat} {read : Option α} (k : α → State)
    (hin : off.toNat + w ≤ s.latched.len.toNat)
    (hr : ReadsExactly s.inbuf (Set.Ico off.toNat (off.toNat + w)) read) :
    checkLen s (checkOperand (pastBound off w s) s (readOrFault read k)) = .fault .unwrittenInbuf ↔
      ∃ a ∈ Set.Ico off.toNat (off.toNat + w), s.inbuf.readByte a = none := by
  rw [checkLen_of_fits _ hm, checkOperand_of_inside _ hin]
  exact hr.fault_iff k

theorem exec_fault_iff_of_readWidth {i : Instr} {k : Nat} (hk : readWidth i = some k)
    (hin : s.latched.opa.toNat + k ≤ s.latched.len.toNat) :
    exec i s = .fault .unwrittenInbuf ↔
      ∃ a ∈ Set.Ico s.latched.opa.toNat (s.latched.opa.toNat + k), s.inbuf.readByte a = none := by
  cases i with
  | fetch8 => cases hk; exact memoryPrimitive_fault_iff hm _ hin (fetch8_readsExactly _)
  | fetch32 => cases hk; exact memoryPrimitive_fault_iff hm _ hin (fetch32_readsExactly _)
  | fetch64 => cases hk; exact memoryPrimitive_fault_iff hm _ hin (fetch64_readsExactly _)
  | weakhashMem => cases hk; exact memoryPrimitive_fault_iff hm _ hin (weakHashMem_readsExactly _ _ _)
  | _ => cases hk

end

section
variable {s : State} (hp : s.phase = .loop)
include hp

/-- A LOOP step of HASH32 faults on any unwritten byte of the chunk at OFF. -/
theorem exec_hash32_fault_iff_of_loop :
    exec .hash32 s = .fault .unwrittenInbuf ↔
      ∃ a ∈ Set.Ico s.off.toNat (s.off.toNat + 20), s.inbuf.readByte a = none := by
  simp only [exec, execHash32, hp]
  exact (hash32Chunk_readsExactly _ _).fault_iff _

/-- A LOOP step of a Hash64-family command faults on any unwritten byte of the chunk at OFF. -/
theorem exec_hash64_fault_iff_of_loop {i : Instr} (hi : isHash64 i = true) :
    exec i s = .fault .unwrittenInbuf ↔
      ∃ a ∈ Set.Ico s.off.toNat (s.off.toNat + 64), s.inbuf.readByte a = none := by
  simp only [exec_eq_hash64Step hi, hash64Step, hp]
  exact (hash64Chunk_readsExactly _ _).fault_iff _

end

/-- Settles O48: each step faults exactly when its read has no value, and each read's bytes are the union of its
fetches' windows. -/
theorem faultsExactlyOnUnwrittenInput : Obligations.FaultsExactlyOnUnwrittenInput := by
  unfold Obligations.FaultsExactlyOnUnwrittenInput
  intro i s
  -- a window's two bounds stand together, as in membership of `Set.Ico`
  simp only [← and_assoc (b := _ < _)]
  refine ⟨?_, ?_, ?_, ?_, ?_⟩
  · rintro (⟨rfl, hn⟩ | ⟨hi, hn⟩) hp hm
    · exact exec_hash32_fault_iff_of_short hm hp hn
    · exact exec_hash64_fault_iff_of_short hm hi hp hn
  · rintro rfl hn hp hm
    exact exec_hash32_fault_iff_of_long hm hp hn
  · exact fun hi hn hp hm => exec_hash64_fault_iff_of_long hm hi hp hn
  · rintro c (⟨rfl, rfl⟩ | ⟨hi, rfl⟩) hp
    · exact exec_hash32_fault_iff_of_loop hp
    · exact exec_hash64_fault_iff_of_loop hp hi
  · exact fun k hk hm hin => exec_fault_iff_of_readWidth hm hk hin

/-! ### ERR_LEN (R133) -/

theorem hash64Step_of_lenTooBig {s : State} (post : U64 → U64) (hp : s.phase = .setup)
    (hbig : s.params.maxlen.toNat < s.latched.len.toNat) : hash64Step post s = .next (raiseError .len s) := by
  simp only [hash64Step, hp]
  exact checkLen_of_big _ hbig

/-- A command that reads INBUF checks its length first, whatever its other operands (30_encoding.md R61). -/
theorem exec_of_lenTooBig {i : Instr} {s : State} (hi : readsInbuf i = true) (hp : s.phase = .setup)
    (hbig : s.params.maxlen.toNat < s.latched.len.toNat) : exec i s = .next (raiseError .len s) := by
  cases i with
  | hash32 =>
    simp only [exec, execHash32, hp]
    exact checkLen_of_big _ hbig
  | hash64 | hash64Seed | hash64Seeds => exact hash64Step_of_lenTooBig _ hp hbig
  | fetch8 | fetch32 | fetch64 | weakhashMem => exact checkLen_of_big _ hbig
  | _ => cases hi

/-- With a legal length no step raises ERR_LEN. -/
theorem Move.errcode_ne_len {i : Instr} {s t : State} (m : Move i s t)
    (hfits : s.latched.len.toNat ≤ s.params.maxlen.toNat) (h : s.status.errcode ≠ 0x03) :
    t.status.errcode ≠ 0x03 := by
  cases m with
  | lenError hbig => exact absurd hbig (Nat.not_lt.mpr hfits)
  | operandError => exact (by decide : CmdError.code .operand ≠ 0x03)
  | done | donePair | final32 | final64 => exact (by decide : (0 : U8) ≠ 0x03)
  | start32 | start64 | loop32 | loop64 => exact h

/-- Settles O32: the length check comes first in SETUP, and with MAXLEN = 2^64 − 1 every length passes it. -/
theorem lengthAboveBufferEndsWithErrLen : Obligations.LengthAboveBufferEndsWithErrLen := by
  unfold Obligations.LengthAboveBufferEndsWithErrLen
  refine ⟨fun i s => exec_of_lenTooBig, fun i s t hmax hcode h => (exec_moves h).errcode_ne_len ?_ hcode⟩
  have := s.latched.len.isLt
  omega

end Sys2Proof.Machine
end

section
/-! SUPPORT. The host port's own rules (60_exceptions.md R142, R148, R150): what sets and clears WDROP, the idle engine, and
the accesses that are refused. -/

namespace Sys2Proof.Machine

/-! ### WDROP -/

/-- The next event is a host write that R142 drops: to CMD while BUSY, or to INBUF while BUSY or at or above MAXLEN. -/
def State.nextWriteDropped (s : State) : Prop :=
  (s.busy = true ∧ ∃ word rest, s.events = .host (.regWrite 0x00 8 word) :: rest) ∨
    ∃ a b rest, s.events = .host (.bufWrite a b) :: rest ∧ (s.busy = true ∨ s.params.maxlen.toNat ≤ a)

/-- The next event clears WDROP: reset, or a host write of bit 3 to STATUS (10_state.md R23). -/
def State.nextClearsWdrop (s : State) : Prop :=
  (∃ rest, s.events = .reset :: rest) ∨
    ∃ v rest, s.events = .host (.regWrite 0x08 8 v) :: rest ∧ v.getLsbD 3 = true

/-- What a step can do to WDROP. -/
inductive WdropMove (s t : State) : Prop where
  | set (h : s.nextWriteDropped) (ht : t.status.wdrop = true)
  | clear (h : s.nextClearsWdrop) (ht : t.status.wdrop = false)
  | keep (ht : t.status.wdrop = s.status.wdrop)

section
variable {s t : State} {rest : List Event}

theorem pollDone_wdrop (s : State) : (pollDone s).status.wdrop = s.status.wdrop := by
  simp only [pollDone]
  split <;> rfl

/-- Of the registers only CMD, while BUSY, and STATUS have a write that changes WDROP. -/
theorem writeReg_wdropMove {r : HostReg} {v : U64}
    (hev : s.events = .host (.regWrite (offsetOf r) 8 v) :: rest) :
    WdropMove s (writeReg r v { s with events := rest }) := by
  cases r with
  | cmd =>
    cases hb : s.busy with
    | true =>
      rw [writeReg, writeCmd_of_busy (s := { s with events := rest }) v hb]
      exact .set (.inl ⟨hb, v, rest, hev⟩) rfl
    | false =>
      rw [writeReg, writeCmd_of_idle (s := { s with events := rest }) v hb]
      exact .keep rfl
  | status =>
    cases hv : v.getLsbD 3 with
    | true =>
      exact .clear (.inr ⟨v, rest, hev, hv⟩)
        ((status_hostWrite_wdrop s.status v).trans (by rw [hv, Bool.not_true, Bool.and_false]))
    | false => exact .keep ((status_hostWrite_wdrop s.status v).trans (by rw [hv, Bool.not_false, Bool.and_true]))
  | _ => exact .keep rfl

theorem regWriteAt_wdropMove {off : Nat} {v : U64} (hev : s.events = .host (.regWrite off 8 v) :: rest) :
    WdropMove s (regWriteAt off v { s with events := rest }) := by
  unfold regWriteAt
  split
  case h_1 r hr =>
    obtain rfl := (regAt_eq_some_iff off r).mp hr
    exact writeReg_wdropMove hev
  case h_2 => exact .keep rfl

/-- The engine, reads and `wait` keep WDROP; the rest is one case for each kind of host write, and reset. -/
theorem step_wdropMove (h : step s = .next t) : WdropMove s t := by
  rcases step_cases h with ⟨-, he⟩ | ⟨rest, -, he⟩ | ⟨x, rest, hev, m⟩ | ⟨rest, hev, rfl⟩ | ⟨rest, -, rfl⟩
  · exact .keep (engineStep_engineFrame he).wdrop
  · exact .keep (engineStep_engineFrame he).wdrop
  · cases m with
    | regWrite off v => exact regWriteAt_wdropMove hev
    | bufDrop a b hdrop => exact .set (.inr ⟨a, b, rest, hev, hdrop⟩) rfl
    | regRead | bufWrite | bufRead => exact .keep rfl
  · exact .clear (.inl ⟨rest, hev⟩) rfl
  · exact .keep (pollDone_wdrop _)

end

/-- Settles O54: the three dropped writes set WDROP, and the cases of `WdropMove` leave no other way to set or clear it. -/
theorem wdropSetExactlyByDroppedWrites : Obligations.WdropSetExactlyByDroppedWrites := by
  unfold Obligations.WdropSetExactlyByDroppedWrites
  refine ⟨fun s word rest hb hev => ⟨_, step_cmdWrite hev, ?_⟩, fun s a b rest hdrop hev => ⟨_, step_host hev, ?_⟩,
    fun s t h hs ht => ?_, fun s t h hs ht => ?_, fun s b => rfl⟩
  · rw [writeCmd_of_busy (s := { s with events := rest }) word hb]
    rfl
  · rw [bufWrite_of_dropped (s := { s with events := rest }) b hdrop.symm]
    rfl
  · cases step_wdropMove h with
    | set hdropped => exact hdropped
    | clear _ ht' => simp [ht] at ht'
    | keep ht' => simp [hs, ht] at ht'
  · cases step_wdropMove h with
    | set _ ht' => simp [ht] at ht'
    | clear hclears => exact hclears
    | keep ht' => simp [hs, ht] at ht'

/-! ### Refused accesses and the idle engine -/

/-- Settles O9: a read or write is refused exactly outside the form of 20_memory.md R47. -/
theorem outOfInterfaceAccessRefused : Obligations.OutOfInterfaceAccessRefused := by
  unfold Obligations.OutOfInterfaceAccessRefused
  intro s rest t off width v ht hev
  simp only [step_host hev, ← inInterface_iff]
  rcases ht with rfl | rfl
  · exact ⟨fun hf => if_neg hf, fun hf => ⟨_, if_pos hf⟩⟩
  · exact ⟨fun hf => if_neg hf, fun hf => ⟨_, if_pos hf⟩⟩

/-- Settles O15: an engine step with PHASE = IDLE answers the state it was given. -/
theorem idleEngineDoesNothing : Obligations.IdleEngineDoesNothing := by
  unfold Obligations.IdleEngineDoesNothing
  intro s hp
  refine ⟨fun hev => ?_, fun rest hev => ?_⟩
  · rw [step_nil hev, engineStep_of_idle hp]
  · rw [step_engine hev]
    exact engineStep_of_idle (s := { s with events := rest }) hp

end Sys2Proof.Machine
end

section
/-! SUPPORT. Reset and hazards (70_reset_and_hazards.md): the reset event (R151, R153), a host write of an operand register
while a command runs (R158), the results while BUSY (R159), and how DONE is cleared (R160). -/

namespace Sys2Proof.Machine

/-! ### Operand registers -/

/-- On states with the same operand registers, an operand write is one replacement of those registers. -/
theorem writeReg_eq_withRegs {r : HostReg} {s t : State} (v : U64) (hr : operandReg r = true) (h : t.regs = s.regs) :
    writeReg r v t = t.withRegs (writeReg r v s).regs := by
  cases r with
  | cmd | status | irqen | result | resultHi | maxlen => cases hr
  | _ => simp only [writeReg, State.withRegs, h]

theorem readReg_writeReg_same {r : HostReg} (v : U64) (s : State) (hr : operandReg r = true) :
    readReg r (writeReg r v s) = v := by
  cases r with
  | cmd | status | irqen | result | resultHi | maxlen => cases hr
  | _ => rfl

theorem readReg_writeReg_of_ne {r r' : HostReg} (v : U64) (s : State) (hr : operandReg r = true) (hne : r' ≠ r) :
    readReg r' (writeReg r v s) = readReg r' s := by
  cases r with
  | cmd | status | irqen | result | resultHi | maxlen => cases hr
  | _ => cases r' <;> simp [readReg, writeReg, statusWord, irqenWord, State.busy] at hne ⊢

/-- Two changes that agree on every state an outcome can carry change it alike. -/
theorem mapNext_congr {f g : State → State} {x : Result} (h : ∀ t, x = .next t → f t = g t) :
    mapNext f x = mapNext g x := by
  cases x with
  | next t => exact congrArg Host.Outcome.next (h t rfl)
  | fault r => rfl
  | refused r => rfl

/-- A command's step commutes with an operand write: it neither reads nor writes the host's registers (10_state.md R28). -/
theorem exec_writeReg {r : HostReg} (i : Instr) (v : U64) (s : State) (hr : operandReg r = true) :
    exec i (writeReg r v s) = mapNext (writeReg r v) (exec i s) :=
  calc exec i (writeReg r v s)
    _ = exec i (s.withRegs (writeReg r v s).regs) := congrArg (exec i) (writeReg_eq_withRegs v hr rfl)
    _ = mapNext (State.withRegs (writeReg r v s).regs) (exec i s) := exec_withRegs i s _
    _ = mapNext (writeReg r v) (exec i s) :=
      mapNext_congr fun _ h => (writeReg_eq_withRegs v hr (exec_moves h).engineFrame.regs).symm

/-- Settles O3: the write replaces one of the host's operand registers, which a command's step does not look at and an
acceptance latches. -/
theorem operandRegisterWriteSparesRunningCommand : Obligations.OperandRegisterWriteSparesRunningCommand := by
  unfold Obligations.OperandRegisterWriteSparesRunningCommand
  intro r v s hr
  refine ⟨fun rest hev => ?_, readReg_writeReg_same v s hr, fun r' hne => readReg_writeReg_of_ne v s hr hne,
    fun i => exec_writeReg i v s hr, fun word => accept_latched word _⟩
  rw [step_regWrite (offsetOf_inInterface r) hev, regWriteAt, regAt_offsetOf]

/-! ### The results while BUSY -/

section
variable {s t : State} {x : HostTxn}

theorem RegMove.results (m : RegMove s t) : t.result = s.result ∧ t.resultHi = s.resultHi := by
  cases m <;> exact ⟨rfl, rfl⟩

theorem HostMove.results (m : HostMove s x t) : t.result = s.result ∧ t.resultHi = s.resultHi := by
  cases m with
  | regWrite off v => exact (regWriteAt_moves off v s).results
  | _ => exact ⟨rfl, rfl⟩

/-- An engine step ends the command or leaves the results alone; an idle engine does nothing (60_exceptions.md R148). -/
theorem engineStep_results_of_busy (h : engineStep s = .next t) (hb : t.busy = true) :
    t.result = s.result ∧ t.resultHi = s.resultHi := by
  rcases engineStep_cases h with ⟨-, rfl⟩ | ⟨-, e, -, -, rfl⟩ | ⟨-, i, -, m⟩
  · exact ⟨rfl, rfl⟩
  · exact ⟨rfl, rfl⟩
  · obtain ⟨hlo, hhi, -⟩ := m.stepEnd.stale_of_busy hb
    exact ⟨hlo, hhi⟩

end

/-- Settles O56: host accesses and `wait` never touch the results, an engine step writes them only as it ends the command,
and reset leaves the engine idle. -/
theorem resultIsStaleWhileBusy : Obligations.ResultIsStaleWhileBusy := by
  unfold Obligations.ResultIsStaleWhileBusy
  intro s t h hb
  rcases step_cases h with ⟨-, he⟩ | ⟨rest, -, he⟩ | ⟨x, rest, -, m⟩ | ⟨rest, -, rfl⟩ | ⟨rest, -, rfl⟩
  · exact engineStep_results_of_busy he hb
  · exact engineStep_results_of_busy (s := { s with events := rest }) he hb
  · exact m.results
  · exact absurd (applyReset_phase _) ((busy_iff _).mp hb)
  · have f := pollDone_runningFrame { s with events := rest }
    exact ⟨f.result, f.resultHi⟩

/-! ### DONE -/

/-- The three ways to lose DONE: reset, a host write of bit 1 to STATUS (10_state.md R23), and the acceptance of a command,
which sets BUSY (30_encoding.md R60). -/
def DoneCleared (s t : State) : Prop :=
  (∃ rest, s.events = .reset :: rest) ∨
  (∃ v rest, s.events = .host (.regWrite 0x08 8 v) :: rest ∧ v.getLsbD 1 = true) ∨
  (s.busy = false ∧ t.busy = true ∧ ∃ word rest, s.events = .host (.regWrite 0x00 8 word) :: rest)

section
variable {s t : State} {rest : List Event}

theorem pollDone_done (s : State) : (pollDone s).status.done = s.status.done := by
  simp only [pollDone]
  split <;> rfl

/-- An engine step never clears DONE. -/
theorem engineStep_keeps_done (h : engineStep s = .next t) (hd : s.status.done = true) : t.status.done = true := by
  rcases engineStep_cases h with ⟨-, rfl⟩ | ⟨-, e, -, -, rfl⟩ | ⟨-, i, -, m⟩
  · exact hd
  · exact status_fail_done s.status e
  · cases hb : t.busy with
    | true =>
      obtain ⟨-, -, hs⟩ := m.stepEnd.stale_of_busy hb
      rw [hs, hd]
    | false => exact m.stepEnd.done_of_idle hb

/-- Of the registers only CMD, while idle, and STATUS have a write that clears DONE. -/
theorem writeReg_doneCleared {r : HostReg} {v : U64} (hev : s.events = .host (.regWrite (offsetOf r) 8 v) :: rest)
    (hd : s.status.done = true) (ht : (writeReg r v { s with events := rest }).status.done = false) :
    DoneCleared s (writeReg r v { s with events := rest }) := by
  cases r with
  | cmd =>
    cases hb : s.busy with
    | true =>
      rw [writeReg, writeCmd_of_busy (s := { s with events := rest }) v hb, dropWrite_status, status_drop_done] at ht
      simp [hd] at ht
    | false =>
      rw [writeReg, writeCmd_of_idle (s := { s with events := rest }) v hb]
      exact .inr (.inr ⟨hb, rfl, v, rest, hev⟩)
  | status =>
    have hbit : (s.status.done && !v.getLsbD 1) = false := ht
    exact .inr (.inl ⟨v, rest, hev, by simpa [hd] using hbit⟩)
  | _ => simp [writeReg, hd] at ht

theorem regWriteAt_doneCleared {off : Nat} {v : U64} (hev : s.events = .host (.regWrite off 8 v) :: rest)
    (hd : s.status.done = true) (ht : (regWriteAt off v { s with events := rest }).status.done = false) :
    DoneCleared s (regWriteAt off v { s with events := rest }) := by
  cases hr : regAt off with
  | some r =>
    obtain rfl := (regAt_eq_some_iff off r).mp hr
    simp only [regWriteAt, hr] at ht ⊢
    exact writeReg_doneCleared hev hd ht
  | none => simp [regWriteAt, hr, hd] at ht

/-- The engine, reads, INBUF writes and `wait` keep DONE. -/
theorem step_doneCleared (h : step s = .next t) (hd : s.status.done = true) (ht : t.status.done = false) :
    DoneCleared s t := by
  rcases step_cases h with ⟨-, he⟩ | ⟨rest, -, he⟩ | ⟨x, rest, hev, m⟩ | ⟨rest, hev, -⟩ | ⟨rest, -, rfl⟩
  · simp [engineStep_keeps_done he hd] at ht
  · simp [engineStep_keeps_done he hd] at ht
  · cases m with
    | regWrite off v => exact regWriteAt_doneCleared hev hd ht
    | bufDrop | regRead | bufWrite | bufRead => simp [hd] at ht
  · exact .inl ⟨rest, hev⟩
  · simp [pollDone_done, hd] at ht

end

/-- Settles O57: DONE is lost in the three ways of `DoneCleared`, and an accepted command sets BUSY and clears DONE. -/
theorem doneIsSticky : Obligations.DoneIsSticky := by
  unfold Obligations.DoneIsSticky
  refine ⟨fun s t => step_doneCleared, fun s word hb => ?_⟩
  rw [writeReg, writeCmd_of_idle word hb]
  exact ⟨rfl, statusWord_getLsbD _ 1⟩

/-! ### Reset -/

/-- Settles O1: the event applies the reset, after which the registers have the values of R36 and an idle engine accepts
a CMD write. -/
theorem resetEventRestoresEveryRegister : Obligations.ResetEventRestoresEveryRegister := by
  unfold Obligations.ResetEventRestoresEveryRegister
  intro s rest hev
  refine ⟨_, step_reset hev, fun r => readReg_eq_zero rfl rfl rfl rfl rfl rfl, rfl, rfl, rfl,
    readByte_clearMarks s.inbuf, contents_clearMarks s.inbuf, fun word => ?_, rfl⟩
  rw [writeReg, writeCmd_of_idle word rfl, accept_phase]

end Sys2Proof.Machine
end
